-- ==== Sys2Proof/Word.lean ====
section
/-! DEFINITION. The words the block handles (spec/00_scope.md R5, R6, R9). All values are unsigned. -/

namespace Sys2Proof

/-- A byte of the 8-bit data bus (R5). -/
abbrev Byte := BitVec 8

/-- A 16-bit bus address (R5). -/
abbrev Addr := BitVec 16

/-- A palette entry: one 16-bit word holding a 15-bit colour (spec/10_state.md R38, R39). -/
abbrev Entry := BitVec 16

/-- A 24-bit colour, red in 23:16, green in 15:8, blue in 7:0 (spec/43_palette_color.md R176). -/
abbrev Rgb24 := BitVec 24

/-- A 32-bit operation word (spec/30_encoding.md R100). -/
abbrev OpWord := BitVec 32

/-- The number of a VRAM bank, 0 or 1 (spec/10_state.md R32, R41). -/
abbrev Bank := BitVec 1

/-- The contents of one VRAM bank: (offset, byte) pairs, offsets 0..8191 (spec/10_state.md R41).
The canonical form is `Memory.wf` of `Machine/Ops.lean`. -/
abbrev Memory := List Host.Cell

end Sys2Proof
end

