-- ==== Sys2Proof/Syntax.lean ====
section
/-! DEFINITION. The operations of spec/opcode_table.json, one constructor per mnemonic, and the names the operation
word and the router's decode table use for what they select (spec/30_encoding.md R101, spec/44_router.md R191). -/

namespace Sys2Proof

/-- The KIND of an operation word (R101). -/
inductive Kind where
  | rd | wr | vrd | vwr | tick | commit | resolve | vrdb | reset
  deriving DecidableEq, Repr

/-- What the router's decode table names for a bus read (R191, column "read rule"). -/
inductive ReadHandler where
  | timer | audio | lcd | oamDma | key1 | vbk | boot | hdma1 | hdma2 | hdma3 | hdma4 | hdma5
  | bcps | bcpd | ocps | ocpd | wramBank | generic
  deriving DecidableEq, Repr

/-- What the router's decode table names for a bus write (R191, column "write rule"). -/
inductive WriteHandler where
  | timer | audio | lcd | lcdPal | oamDma | key1 | vbk | boot | hdma1 | hdma2 | hdma3 | hdma4 | hdma5
  | bcps | bcpd | ocps | ocpd | wramBank | generic
  deriving DecidableEq, Repr

/-- An operation on one of the block's ports. A row of the table that covers several addresses keeps the address as
an operand; `v` is the data byte of a write. -/
inductive Instr where
  /-- RD TIMER, R195 -/
  | rdTimer (a : Addr)
  /-- WR TIMER, R196 -/
  | wrTimer (a : Addr) (v : Byte)
  /-- RD AUDIO, R197 -/
  | rdAudio (a : Addr)
  /-- WR AUDIO, R198 -/
  | wrAudio (a : Addr) (v : Byte)
  /-- RD LCD, R199 -/
  | rdLcd (a : Addr)
  /-- WR LCD, R200 -/
  | wrLcd (a : Addr) (v : Byte)
  /-- WR LCDPAL, R201 -/
  | wrLcdpal (a : Addr) (v : Byte)
  /-- WR OAMDMA, R202 -/
  | wrOamdma (v : Byte)
  /-- RD OAMDMA, R203 -/
  | rdOamdma
  /-- RD KEY1, R281 -/
  | rdKey1
  /-- WR KEY1, R280 -/
  | wrKey1 (v : Byte)
  /-- RD VBK, R131 -/
  | rdVbk
  /-- WR VBK, R130 -/
  | wrVbk (v : Byte)
  /-- WR BOOT, R204 -/
  | wrBoot (v : Byte)
  /-- RD BOOT, R205 -/
  | rdBoot
  /-- WR HDMA1, R241 -/
  | wrHdma1 (v : Byte)
  /-- WR HDMA2, R242 -/
  | wrHdma2 (v : Byte)
  /-- WR HDMA3, R243 -/
  | wrHdma3 (v : Byte)
  /-- WR HDMA4, R244 -/
  | wrHdma4 (v : Byte)
  /-- RD HDMA1, R245 -/
  | rdHdma1
  /-- RD HDMA2, R246 -/
  | rdHdma2
  /-- RD HDMA3, R247 -/
  | rdHdma3
  /-- RD HDMA4, R248 -/
  | rdHdma4
  /-- RD HDMA5, R249 -/
  | rdHdma5
  /-- WR HDMA5, R250 -/
  | wrHdma5 (v : Byte)
  /-- WR BCPS, R150 -/
  | wrBcps (v : Byte)
  /-- RD BCPS, R151 -/
  | rdBcps
  /-- WR OCPS, R152 -/
  | wrOcps (v : Byte)
  /-- RD OCPS, R153 -/
  | rdOcps
  /-- WR BCPD, R170 -/
  | wrBcpd (v : Byte)
  /-- RD BCPD, R171 -/
  | rdBcpd
  /-- WR OCPD, R172 -/
  | wrOcpd (v : Byte)
  /-- RD OCPD, R173 -/
  | rdOcpd
  /-- RD WRAMBANK, R206 -/
  | rdWrambank
  /-- WR WRAMBANK, R207 -/
  | wrWrambank (v : Byte)
  /-- RD GENERIC, R208 -/
  | rdGeneric (a : Addr)
  /-- WR GENERIC, R209 -/
  | wrGeneric (a : Addr) (v : Byte)
  /-- VRD, R132 -/
  | vrd (a : Addr)
  /-- VWR, R133 -/
  | vwr (a : Addr) (v : Byte)
  /-- TICK, R255 -/
  | tick
  /-- COMMIT, R282 -/
  | commit
  /-- RESOLVE BG, R174: palette number P and colour number C, 4 bits each (R108) -/
  | resolveBg (p c : BitVec 4)
  /-- RESOLVE OBJ, R175 -/
  | resolveObj (p c : BitVec 4)
  /-- VRDB, R134 -/
  | vrdb (b : Bank) (a : Addr)
  /-- RESET, R330 -/
  | reset
  deriving DecidableEq, Repr

end Sys2Proof
end

