-- ==== Sys2Proof/WellFormed.lean ====
section
/-! DEFINITION. Which terms of `Instr` are operations in a colour mode: an address operand lies in its row's set, a
colour-mode-only row needs CGB_MODE = 1, and the generic rows take the addresses no other row names
(spec/44_router.md R191, R192, R193). -/

namespace Sys2Proof

/-- `lo ≤ a ≤ hi`. -/
def Addr.within (lo hi a : Addr) : Bool := decide (lo ≤ a) && decide (a ≤ hi)

/-- 0xFF04..0xFF07 (R195). -/
def Addr.isTimer (a : Addr) : Bool := Addr.within 0xFF04#16 0xFF07#16 a

/-- 0xFF10..0xFF3F (R197). -/
def Addr.isAudio (a : Addr) : Bool := Addr.within 0xFF10#16 0xFF3F#16 a

/-- The LCD control and position registers (R200). -/
def Addr.isLcdControl (a : Addr) : Bool :=
  a == 0xFF40#16 || a == 0xFF42#16 || a == 0xFF43#16 || a == 0xFF4A#16 || a == 0xFF4B#16

/-- The LCD compatibility palettes (R201; the spec's own reading from general knowledge, log 16). -/
def Addr.isLcdPal (a : Addr) : Bool := a == 0xFF47#16 || a == 0xFF48#16 || a == 0xFF49#16

/-- The colour-mode-only addresses (R192). -/
def Addr.isCgbOnly (a : Addr) : Bool :=
  a == 0xFF4D#16 || a == 0xFF4F#16 || Addr.within 0xFF51#16 0xFF55#16 a || Addr.within 0xFF68#16 0xFF6B#16 a

/-- The addresses a row other than the generic one names under CGB_MODE = `cgb` (R191, R192). -/
def Addr.isNamed (cgb : Bool) (a : Addr) : Bool :=
  Addr.isTimer a || Addr.isAudio a || Addr.isLcdControl a || Addr.isLcdPal a
    || a == 0xFF46#16 || a == 0xFF50#16 || a == 0xFF70#16 || (cgb && Addr.isCgbOnly a)

/-- The operation exists in a machine whose CGB_MODE is `cgb`. -/
def WellFormed (cgb : Bool) : Instr → Bool
  | .rdTimer a => Addr.isTimer a
  | .wrTimer a _ => Addr.isTimer a
  | .rdAudio a => Addr.isAudio a
  | .wrAudio a _ => Addr.isAudio a
  | .rdLcd a => Addr.isLcdControl a || Addr.isLcdPal a
  | .wrLcd a _ => Addr.isLcdControl a
  | .wrLcdpal a _ => Addr.isLcdPal a
  | .wrOamdma _ => true
  | .rdOamdma => true
  | .rdKey1 => cgb
  | .wrKey1 _ => cgb
  | .rdVbk => cgb
  | .wrVbk _ => cgb
  | .wrBoot _ => true
  | .rdBoot => true
  | .wrHdma1 _ => cgb
  | .wrHdma2 _ => cgb
  | .wrHdma3 _ => cgb
  | .wrHdma4 _ => cgb
  | .rdHdma1 => cgb
  | .rdHdma2 => cgb
  | .rdHdma3 => cgb
  | .rdHdma4 => cgb
  | .rdHdma5 => cgb
  | .wrHdma5 _ => cgb
  | .wrBcps _ => cgb
  | .rdBcps => cgb
  | .wrOcps _ => cgb
  | .rdOcps => cgb
  | .wrBcpd _ => cgb
  | .rdBcpd => cgb
  | .wrOcpd _ => cgb
  | .rdOcpd => cgb
  | .rdWrambank => true
  | .wrWrambank _ => true
  | .rdGeneric a => !Addr.isNamed cgb a
  | .wrGeneric a _ => !Addr.isNamed cgb a
  | .vrd _ => true
  | .vwr _ _ => true
  | .tick => true
  | .commit => true
  | .resolveBg _ _ => true
  | .resolveObj _ _ => true
  | .vrdb _ _ => true
  | .reset => true

end Sys2Proof
end

