-- ==== Sys2Proof/Decode.lean ====
section
/-! DEFINITION. The operation word: its fields, the router's decode table, the decoder (total, refusing by name) and
the encoder (spec/30_encoding.md R100-R110, spec/44_router.md R191, R192). -/

namespace Sys2Proof

/-- Why a word spells no operation (R109). -/
inductive DecodeError where
  /-- (a) KIND is 0x9..0xF -/
  | reservedKind
  /-- (b) RSV ≠ 0 -/
  | reservedBits
  /-- (c) SEL is nonzero and the KIND marks it as 0 -/
  | nonzeroSel
  /-- (c) ADDR is nonzero and the KIND marks it as 0 -/
  | nonzeroAddr
  /-- (c) DATA is nonzero and the KIND marks it as 0 -/
  | nonzeroData
  deriving DecidableEq, Repr

/-! ### The fields of the word (R100) -/

/-- KIND, bits 31:28. -/
def OpWord.kind (w : OpWord) : BitVec 4 := w.extractLsb' 28 4

/-- RSV, bits 27:25. -/
def OpWord.rsv (w : OpWord) : BitVec 3 := w.extractLsb' 25 3

/-- SEL, bit 24. -/
def OpWord.sel (w : OpWord) : BitVec 1 := w.extractLsb' 24 1

/-- ADDR, bits 23:8. -/
def OpWord.addr (w : OpWord) : Addr := w.extractLsb' 8 16

/-- DATA, bits 7:0. -/
def OpWord.data (w : OpWord) : Byte := w.extractLsb' 0 8

/-- The KIND a field value names (R101). -/
def Kind.ofField (k : BitVec 4) : Option Kind :=
  match k.toNat with
  | 0 => some .rd
  | 1 => some .wr
  | 2 => some .vrd
  | 3 => some .vwr
  | 4 => some .tick
  | 5 => some .commit
  | 6 => some .resolve
  | 7 => some .vrdb
  | 8 => some .reset
  | _ => none

/-- The field value of a KIND (R101). -/
def Kind.code : Kind → BitVec 4
  | .rd => 0x0#4
  | .wr => 0x1#4
  | .vrd => 0x2#4
  | .vwr => 0x3#4
  | .tick => 0x4#4
  | .commit => 0x5#4
  | .resolve => 0x6#4
  | .vrdb => 0x7#4
  | .reset => 0x8#4

/-- The KIND uses SEL; otherwise SEL must be 0 (R101). -/
def Kind.usesSel : Kind → Bool
  | .resolve => true
  | .vrdb => true
  | .rd | .wr | .vrd | .vwr | .tick | .commit | .reset => false

/-- The KIND uses ADDR; otherwise ADDR must be 0 (R101). -/
def Kind.usesAddr : Kind → Bool
  | .rd | .wr | .vrd | .vwr | .vrdb => true
  | .tick | .commit | .resolve | .reset => false

/-- The KIND uses DATA; otherwise DATA must be 0 (R101). -/
def Kind.usesData : Kind → Bool
  | .wr | .vwr | .resolve => true
  | .rd | .vrd | .tick | .commit | .vrdb | .reset => false

/-! ### The router's decode table (R191) -/

/-- A row of the decode table: its addresses, whether it applies only in colour mode, and its two rules. -/
structure MapRow where
  lo : Addr
  hi : Addr
  cgbOnly : Bool
  read : ReadHandler
  write : WriteHandler
  deriving DecidableEq, Repr

/-- The row applies to address `a` under CGB_MODE = `cgb`. -/
def MapRow.covers (cgb : Bool) (a : Addr) (r : MapRow) : Bool := Addr.within r.lo r.hi a && (cgb || !r.cgbOnly)

/-- The rows of R191, but for the last ("any other address"). -/
def addressMap : List MapRow :=
  [ ⟨0xFF04#16, 0xFF07#16, false, .timer, .timer⟩
  , ⟨0xFF10#16, 0xFF3F#16, false, .audio, .audio⟩
  , ⟨0xFF40#16, 0xFF40#16, false, .lcd, .lcd⟩
  , ⟨0xFF42#16, 0xFF43#16, false, .lcd, .lcd⟩
  , ⟨0xFF4A#16, 0xFF4B#16, false, .lcd, .lcd⟩
  , ⟨0xFF47#16, 0xFF49#16, false, .lcd, .lcdPal⟩
  , ⟨0xFF46#16, 0xFF46#16, false, .oamDma, .oamDma⟩
  , ⟨0xFF4D#16, 0xFF4D#16, true, .key1, .key1⟩
  , ⟨0xFF4F#16, 0xFF4F#16, true, .vbk, .vbk⟩
  , ⟨0xFF50#16, 0xFF50#16, false, .boot, .boot⟩
  , ⟨0xFF51#16, 0xFF51#16, true, .hdma1, .hdma1⟩
  , ⟨0xFF52#16, 0xFF52#16, true, .hdma2, .hdma2⟩
  , ⟨0xFF53#16, 0xFF53#16, true, .hdma3, .hdma3⟩
  , ⟨0xFF54#16, 0xFF54#16, true, .hdma4, .hdma4⟩
  , ⟨0xFF55#16, 0xFF55#16, true, .hdma5, .hdma5⟩
  , ⟨0xFF68#16, 0xFF68#16, true, .bcps, .bcps⟩
  , ⟨0xFF69#16, 0xFF69#16, true, .bcpd, .bcpd⟩
  , ⟨0xFF6A#16, 0xFF6A#16, true, .ocps, .ocps⟩
  , ⟨0xFF6B#16, 0xFF6B#16, true, .ocpd, .ocpd⟩
  , ⟨0xFF70#16, 0xFF70#16, false, .wramBank, .wramBank⟩ ]

/-- The read rule of address `a` (R190, R191, R192). -/
def readHandler (cgb : Bool) (a : Addr) : ReadHandler :=
  match addressMap.find? (MapRow.covers cgb a) with
  | some r => r.read
  | none => .generic

/-- The write rule of address `a` (R190, R191, R192). -/
def writeHandler (cgb : Bool) (a : Addr) : WriteHandler :=
  match addressMap.find? (MapRow.covers cgb a) with
  | some r => r.write
  | none => .generic

/-- The table row of a bus read of `a`. -/
def ReadHandler.instr (a : Addr) : ReadHandler → Instr
  | .timer => .rdTimer a
  | .audio => .rdAudio a
  | .lcd => .rdLcd a
  | .oamDma => .rdOamdma
  | .key1 => .rdKey1
  | .vbk => .rdVbk
  | .boot => .rdBoot
  | .hdma1 => .rdHdma1
  | .hdma2 => .rdHdma2
  | .hdma3 => .rdHdma3
  | .hdma4 => .rdHdma4
  | .hdma5 => .rdHdma5
  | .bcps => .rdBcps
  | .bcpd => .rdBcpd
  | .ocps => .rdOcps
  | .ocpd => .rdOcpd
  | .wramBank => .rdWrambank
  | .generic => .rdGeneric a

/-- The table row of a bus write of `v` to `a`. -/
def WriteHandler.instr (a : Addr) (v : Byte) : WriteHandler → Instr
  | .timer => .wrTimer a v
  | .audio => .wrAudio a v
  | .lcd => .wrLcd a v
  | .lcdPal => .wrLcdpal a v
  | .oamDma => .wrOamdma v
  | .key1 => .wrKey1 v
  | .vbk => .wrVbk v
  | .boot => .wrBoot v
  | .hdma1 => .wrHdma1 v
  | .hdma2 => .wrHdma2 v
  | .hdma3 => .wrHdma3 v
  | .hdma4 => .wrHdma4 v
  | .hdma5 => .wrHdma5 v
  | .bcps => .wrBcps v
  | .bcpd => .wrBcpd v
  | .ocps => .wrOcps v
  | .ocpd => .wrOcpd v
  | .wramBank => .wrWrambank v
  | .generic => .wrGeneric a v

/-! ### The decoder -/

/-- The operation of a KIND with its fields (R101, R102, R108). -/
def Kind.instr (cgb : Bool) (sel : BitVec 1) (a : Addr) (d : Byte) : Kind → Instr
  | .rd => (readHandler cgb a).instr a
  | .wr => (writeHandler cgb a).instr a d
  | .vrd => .vrd a
  | .vwr => .vwr a d
  | .tick => .tick
  | .commit => .commit
  | .resolve =>
    if sel = 0#1 then .resolveBg (d.extractLsb' 4 4) (d.extractLsb' 0 4)
    else .resolveObj (d.extractLsb' 4 4) (d.extractLsb' 0 4)
  | .vrdb => .vrdb sel a
  | .reset => .reset

/-- The decoder: total on 32-bit words; a word that spells no operation is refused by name (R104, R109). -/
def decode (cgb : Bool) (w : OpWord) : Except DecodeError Instr :=
  match Kind.ofField (OpWord.kind w) with
  | none => .error .reservedKind
  | some k =>
    if OpWord.rsv w ≠ 0#3 then .error .reservedBits
    else if k.usesSel = false ∧ OpWord.sel w ≠ 0#1 then .error .nonzeroSel
    else if k.usesAddr = false ∧ OpWord.addr w ≠ 0#16 then .error .nonzeroAddr
    else if k.usesData = false ∧ OpWord.data w ≠ 0#8 then .error .nonzeroData
    else .ok (k.instr cgb (OpWord.sel w) (OpWord.addr w) (OpWord.data w))

/-- The decoder as the host asks for it: the operation word is the number `w`, bit 0 its least significant bit, the
bits above `nbits` zero. Colour mode, as in `Machine.State.reset` (log 5). -/
def decodeTableWord (nbits w : Nat) : Option Instr :=
  match decode true (BitVec.ofNat 32 (w % 2 ^ nbits)) with
  | .ok i => some i
  | .error _ => none

/-! ### The encoder, from R100, R101, R111 and the rules' encodings -/

/-- The word with these fields and RSV = 0 (R100). -/
def OpWord.pack (k : Kind) (sel : BitVec 1) (a : Addr) (d : Byte) : OpWord := k.code ++ 0#3 ++ sel ++ a ++ d

/-- `RD a` (R111). -/
def OpWord.rd (a : Addr) : OpWord := OpWord.pack .rd 0#1 a 0#8

/-- `WR a, v` (R111). -/
def OpWord.wr (a : Addr) (v : Byte) : OpWord := OpWord.pack .wr 0#1 a v

/-- The word of an operation. -/
def encode : Instr → OpWord
  | .rdTimer a => OpWord.rd a
  | .wrTimer a v => OpWord.wr a v
  | .rdAudio a => OpWord.rd a
  | .wrAudio a v => OpWord.wr a v
  | .rdLcd a => OpWord.rd a
  | .wrLcd a v => OpWord.wr a v
  | .wrLcdpal a v => OpWord.wr a v
  | .wrOamdma v => OpWord.wr 0xFF46#16 v
  | .rdOamdma => OpWord.rd 0xFF46#16
  | .rdKey1 => OpWord.rd 0xFF4D#16
  | .wrKey1 v => OpWord.wr 0xFF4D#16 v
  | .rdVbk => OpWord.rd 0xFF4F#16
  | .wrVbk v => OpWord.wr 0xFF4F#16 v
  | .wrBoot v => OpWord.wr 0xFF50#16 v
  | .rdBoot => OpWord.rd 0xFF50#16
  | .wrHdma1 v => OpWord.wr 0xFF51#16 v
  | .wrHdma2 v => OpWord.wr 0xFF52#16 v
  | .wrHdma3 v => OpWord.wr 0xFF53#16 v
  | .wrHdma4 v => OpWord.wr 0xFF54#16 v
  | .rdHdma1 => OpWord.rd 0xFF51#16
  | .rdHdma2 => OpWord.rd 0xFF52#16
  | .rdHdma3 => OpWord.rd 0xFF53#16
  | .rdHdma4 => OpWord.rd 0xFF54#16
  | .rdHdma5 => OpWord.rd 0xFF55#16
  | .wrHdma5 v => OpWord.wr 0xFF55#16 v
  | .wrBcps v => OpWord.wr 0xFF68#16 v
  | .rdBcps => OpWord.rd 0xFF68#16
  | .wrOcps v => OpWord.wr 0xFF6A#16 v
  | .rdOcps => OpWord.rd 0xFF6A#16
  | .wrBcpd v => OpWord.wr 0xFF69#16 v
  | .rdBcpd => OpWord.rd 0xFF69#16
  | .wrOcpd v => OpWord.wr 0xFF6B#16 v
  | .rdOcpd => OpWord.rd 0xFF6B#16
  | .rdWrambank => OpWord.rd 0xFF70#16
  | .wrWrambank v => OpWord.wr 0xFF70#16 v
  | .rdGeneric a => OpWord.rd a
  | .wrGeneric a v => OpWord.wr a v
  | .vrd a => OpWord.pack .vrd 0#1 a 0#8
  | .vwr a v => OpWord.pack .vwr 0#1 a v
  | .tick => OpWord.pack .tick 0#1 0#16 0#8
  | .commit => OpWord.pack .commit 0#1 0#16 0#8
  | .resolveBg p c => OpWord.pack .resolve 0#1 0#16 (p ++ c)
  | .resolveObj p c => OpWord.pack .resolve 1#1 0#16 (p ++ c)
  | .vrdb b a => OpWord.pack .vrdb b a 0#8
  | .reset => OpWord.pack .reset 0#1 0#16 0#8

end Sys2Proof
end

