-- ==== Sys2Proof/Config.lean ====
section
/-! DEFINITION. What an implementation fixes (the parameters of spec/00_scope.md R7) and the free values.
The parameters are plain data; `State` carries them, constant for a run, so a statement about every state holds for
every choice of them. -/

namespace Sys2Proof

/-- The bus addresses `lo` to `hi`, both included. -/
structure AddrRange where
  lo : Addr
  hi : Addr
  deriving DecidableEq, Repr

/-- The model's parameters (R7). Each OPEN parameter of the spec is a field. -/
structure Params where
  /-- CGB_MODE: the machine runs in colour mode (R7, spec/10_state.md R47). -/
  cgbMode : Bool
  /-- AUDIO_ENABLED: the audio range is forwarded to the sound port (R7, spec/10_state.md R47). -/
  audioEnabled : Bool
  /-- ROUTER_WINDOW beyond the addresses spec/20_memory.md R71 puts into it and less those it keeps out of it: see
  `Machine.inRouterWindow`. -/
  routerWindow : List AddrRange
  /-- RESET_VBK -/
  resetVbk : Bank
  /-- RESET_BCPS -/
  resetBcps : Byte
  /-- RESET_OCPS -/
  resetOcps : Byte
  /-- RESET_HDMA1 -/
  resetHdma1 : Byte
  /-- RESET_HDMA2 -/
  resetHdma2 : Byte
  /-- RESET_HDMA3 -/
  resetHdma3 : Byte
  /-- RESET_HDMA4 -/
  resetHdma4 : Byte
  /-- RESET_KEY1 -/
  resetKey1 : Byte
  /-- RESET_DOUBLE_SPEED -/
  resetDoubleSpeed : Bool
  /-- The value RESET leaves in cur_src: "any 16-bit values" (spec/70_reset_and_hazards.md R330). -/
  resetCurSrc : Addr
  /-- The value RESET leaves in cur_dst (R330). -/
  resetCurDst : Addr
  /-- RESET_VRAM, bank 0 -/
  resetVram0 : Memory
  /-- RESET_VRAM, bank 1 -/
  resetVram1 : Memory
  deriving DecidableEq, Repr

/-- The parameters of the machine `Machine.State.reset` describes. DESIGN CHOICE (logs 5, 7, 8, 9): colour mode, audio
on, every OPEN reset value 0, the cursors as in test condition T3 of spec/95_test_vectors.md. PRESUMED (log 6): the
conventional router window 0xFF00..0xFF7F (G3). Unsafe: another machine has other values; a statement about every
state does not depend on them. -/
def Config.params : Params where
  cgbMode := true
  audioEnabled := true
  routerWindow := [⟨0xFF00#16, 0xFF7F#16⟩]
  resetVbk := 0#1
  resetBcps := 0#8
  resetOcps := 0#8
  resetHdma1 := 0#8
  resetHdma2 := 0#8
  resetHdma3 := 0#8
  resetHdma4 := 0#8
  resetKey1 := 0#8
  resetDoubleSpeed := false
  resetCurSrc := 0x0000#16
  resetCurDst := 0x8000#16
  resetVram0 := []
  resetVram1 := []

/-- FREE VALUE (log 10, safe): the byte a collaborator returns on the `n`-th answer drawn, where `State.replies` does
not list one. Every `Ext.*.read` returns an unconstrained byte (spec/00_scope.md R10, D36, K12). -/
opaque Config.freeByte : Nat → Byte

/-- FREE VALUE (log 11, safe): whether the generic store fails the access of the `n`-th answer drawn, where
`State.replies` does not list one. "Whether and when the store fails is the store's business" (spec/44_router.md R210,
D24, K13). -/
opaque Config.freeFailure : Nat → Bool

end Sys2Proof
end

