-- ==== Sys2Proof/Machine/State.lean ====
section
/-! DEFINITION. The block's state as plain data, its reset, and the ways a step stops (spec/10_state.md section 1). -/

namespace Sys2Proof.Machine

/-- The two palette memories (spec/10_state.md R38). -/
inductive PalMem where
  | bg
  | obj
  deriving DecidableEq, Repr

/-- The collaborator ports that carry reads and writes (spec/00_scope.md R8). -/
inductive Port where
  | timer | audio | lcd | oamDma | wramBank | store | sys
  deriving DecidableEq, Repr

/-- A fault of the block: kind and info (spec/60_exceptions.md R300). -/
inductive BlockFault where
  /-- VRAM_RANGE: a VRAM accessor got an address outside 0x8000..0x9FFF -/
  | vramRange (a : Addr)
  /-- PALETTE_RANGE: RESOLVE with P > 7 or C > 3 -/
  | paletteRange (m : PalMem) (p c : BitVec 4)
  /-- HDMA_WO_READ: a read of HDMA1..HDMA4 in colour mode -/
  | hdmaWoRead (a : Addr)
  /-- STORE_FAIL: the generic store reported failure -/
  | storeFail (a : Addr)
  deriving DecidableEq, Repr

/-- An output event (spec/00_scope.md R8, R10; D37). -/
inductive Event where
  /-- CACHE_CLEAR (spec/20_memory.md R90) -/
  | cacheClear
  /-- TILE_DIRTY(bank, addr) (spec/20_memory.md R91) -/
  | tileDirty (b : Bank) (a : Addr)
  /-- BOOT_ROM_UNMAP (spec/44_router.md R204) -/
  | bootRomUnmap
  /-- `Ext.<port>.write(a, v)` (spec/20_memory.md R92) -/
  | extWrite (p : Port) (a : Addr) (v : Byte)
  deriving DecidableEq, Repr

/-- What an operation returns (spec/20_memory.md R75). -/
inductive Result where
  | byte (v : Byte)
  | colour (c : Rgb24)
  deriving DecidableEq, Repr

/-- A collaborator's answer to one access: the byte of a read, and, for the generic store, whether the access failed
(spec/44_router.md R210). -/
structure Reply where
  data : Byte
  fails : Bool
  deriving DecidableEq, Repr

/-- The state: what the spec gives the block (spec/10_state.md), the parameters of the run (R7), and the outside
world's side of its ports (the MODEL's own fields, logs 1, 4, 10, 12, 13). -/
structure State where
  /-- The parameters, constant for the run (R7, R47) -/
  params : Params
  /-- VBK.bank (R32) -/
  vbk : Bank
  /-- BCPS.raw (R33) -/
  bcps : Byte
  /-- OCPS.raw (R34) -/
  ocps : Byte
  /-- BGPAL[0..31] (R38) -/
  bgpal : Vector Entry 32
  /-- OBJPAL[0..31] (R38) -/
  objpal : Vector Entry 32
  /-- HDMA1, source high byte (R35) -/
  hdma1 : Byte
  /-- HDMA2, source low byte (R35) -/
  hdma2 : Byte
  /-- HDMA3, destination high byte (R35) -/
  hdma3 : Byte
  /-- HDMA4, destination low byte (R35) -/
  hdma4 : Byte
  /-- HDMA5, length/mode/status (R36) -/
  hdma5 : Byte
  /-- transfer_active (R42) -/
  transferActive : Bool
  /-- cur_src (R42) -/
  curSrc : Addr
  /-- cur_dst (R42) -/
  curDst : Addr
  /-- KEY1 (R37) -/
  key1 : Byte
  /-- double_speed, also the DOUBLE_SPEED output port (R43, R283) -/
  doubleSpeed : Bool
  /-- VRAM[0] (R41) -/
  vram0 : Memory
  /-- VRAM[1] (R41) -/
  vram1 : Memory
  /-- fault (R46) -/
  fault : Option BlockFault
  /-- boot_rom_mapped, the boot-state collaborator's flag (R47, R204; log 12) -/
  bootRomMapped : Bool
  /-- MODEL: the words the driver has still to present, next first (log 1) -/
  pending : List OpWord
  /-- MODEL: the words refused so far, newest first; the refusal mark of R109 is "not empty" (log 4) -/
  refusals : List OpWord
  /-- MODEL: what the collaborators will answer, next first (logs 10, 11) -/
  replies : List Reply
  /-- MODEL: how many answers have been drawn (logs 10, 11) -/
  draws : Nat
  /-- MODEL: the output events so far, newest first (D37; log 13) -/
  events : List Event
  /-- MODEL: the collaborator reads driven so far, newest first (log 13) -/
  reads : List (Port × Addr)
  /-- MODEL: what the latest operation returned (D37; log 13) -/
  result : Option Result
  deriving DecidableEq, Repr

/-- The state RESET gives at the start of a run (spec/70_reset_and_hazards.md R330, R332; D37), with the parameters
`Config.params`. Palettes 0xFFFF, HDMA5 0xFF, transfer_active 0 and no fault are the spec's; every OPEN value is that of
the parameters (logs 5 to 9); boot_rom_mapped is the environment's (log 12). No operation is pending (log 1). -/
def State.reset : State where
  params := Config.params
  vbk := Config.params.resetVbk
  bcps := Config.params.resetBcps
  ocps := Config.params.resetOcps
  bgpal := Vector.replicate 32 0xFFFF#16
  objpal := Vector.replicate 32 0xFFFF#16
  hdma1 := Config.params.resetHdma1
  hdma2 := Config.params.resetHdma2
  hdma3 := Config.params.resetHdma3
  hdma4 := Config.params.resetHdma4
  hdma5 := 0xFF#8
  transferActive := false
  curSrc := Config.params.resetCurSrc
  curDst := Config.params.resetCurDst
  key1 := Config.params.resetKey1
  doubleSpeed := Config.params.resetDoubleSpeed
  vram0 := Config.params.resetVram0
  vram1 := Config.params.resetVram1
  fault := none
  bootRomMapped := true
  pending := []
  refusals := []
  replies := []
  draws := 0
  events := []
  reads := []
  result := none

/-- Why a step stops. A fault OF THE BLOCK is no stop: it is the field `State.fault`, reached by a next state (log 3). -/
inductive Fault where
  /-- Raised by `step` alone, when the driver presents no operation: the run has ended (D37; log 2). Safe: the model
  stops where the hardware waits. -/
  | endOfRun
  deriving DecidableEq, Repr

/-- Why an instruction has no meaning. A word that spells no operation is refused by a next state that records it
(spec/30_encoding.md R109; log 4), not by this. -/
inductive Refusal where
  /-- Raised by an arm of `exec` whose instruction has no meaning yet. Safe. No arm is left. -/
  | notModelled (mnemonic : String)
  deriving DecidableEq, Repr

end Sys2Proof.Machine
end

