-- ==== Sys2Proof/Machine/Ops.lean ====
section
/-! DEFINITION. The named operations over memory, registers and ports: VRAM, palettes, collaborator accesses, output
events, raising a fault, and the frame every operation runs in (spec/20_memory.md, spec/60_exceptions.md R301). -/

namespace Sys2Proof.Machine

/-! ### One VRAM bank as a list of cells -/

/-- What a byte reads as that no cell lists. DESIGN CHOICE (log 9), unsafe: RESET_VRAM is unspecified (R41, K8). -/
def Memory.unlisted : Byte := 0x00#8

/-- The byte at offset `k`. -/
def Memory.read : Memory → Nat → Byte
  | [], _ => Memory.unlisted
  | (k', x) :: m, k => if k' = k then x else Memory.read m k

/-- Put a cell in front, unless it says what an unlisted offset says. -/
def Memory.cons (k : Nat) (v : Byte) (m : Memory) : Memory := if v = Memory.unlisted then m else (k, v) :: m

/-- Write a byte, keeping the canonical form. -/
def Memory.write : Memory → Nat → Byte → Memory
  | [], k, v => Memory.cons k v []
  | (k', x) :: m, k, v =>
    if k < k' then Memory.cons k v ((k', x) :: m)
    else if k = k' then Memory.cons k v m
    else (k', x) :: Memory.write m k v

/-- The size of a bank (R6, R41). -/
def Memory.size : Nat := 8192

/-- Offsets strictly rise from at least `lo`, lie below the size, and no cell says what an unlisted offset says. -/
def Memory.wfFrom : Nat → Memory → Bool
  | _, [] => true
  | lo, (k, v) :: m => decide (lo ≤ k) && decide (k < Memory.size) && decide (v ≠ Memory.unlisted) && Memory.wfFrom (k + 1) m

/-- The canonical form. -/
def Memory.wf (m : Memory) : Bool := Memory.wfFrom 0 m

/-! ### Single-field updates -/

/-- Set VBK.bank. -/
def State.setVbk (b : Bank) (s : State) : State := { s with vbk := b }

/-- Set the index register of a palette memory: BCPS.raw or OCPS.raw (R33, R34). -/
def State.setPalIndex (m : PalMem) (v : Byte) (s : State) : State :=
  match m with
  | .bg => { s with bcps := v }
  | .obj => { s with ocps := v }

/-- Set an entry of a palette memory (R38). -/
def State.setPalEntry (m : PalMem) (i : Fin 32) (e : Entry) (s : State) : State :=
  match m with
  | .bg => { s with bgpal := s.bgpal.set i e }
  | .obj => { s with objpal := s.objpal.set i e }

/-- Set HDMA1. -/
def State.setHdma1 (v : Byte) (s : State) : State := { s with hdma1 := v }

/-- Set HDMA2. -/
def State.setHdma2 (v : Byte) (s : State) : State := { s with hdma2 := v }

/-- Set HDMA3. -/
def State.setHdma3 (v : Byte) (s : State) : State := { s with hdma3 := v }

/-- Set HDMA4. -/
def State.setHdma4 (v : Byte) (s : State) : State := { s with hdma4 := v }

/-- Set HDMA5. -/
def State.setHdma5 (v : Byte) (s : State) : State := { s with hdma5 := v }

/-- Set transfer_active. -/
def State.setActive (b : Bool) (s : State) : State := { s with transferActive := b }

/-- Set cur_src and cur_dst. -/
def State.setCursors (src dst : Addr) (s : State) : State := { s with curSrc := src, curDst := dst }

/-- Set KEY1. -/
def State.setKey1 (v : Byte) (s : State) : State := { s with key1 := v }

/-- Set double_speed. -/
def State.setDoubleSpeed (b : Bool) (s : State) : State := { s with doubleSpeed := b }

/-- Replace the contents of a VRAM bank. -/
def State.setVram (b : Bank) (m : Memory) (s : State) : State :=
  if b = 0#1 then { s with vram0 := m } else { s with vram1 := m }

/-- Set the fault field. -/
def State.setFault (f : Option BlockFault) (s : State) : State := { s with fault := f }

/-- Set boot_rom_mapped. -/
def State.setBootRomMapped (b : Bool) (s : State) : State := { s with bootRomMapped := b }

/-- Set what the operation returns. -/
def State.setResult (r : Option Result) (s : State) : State := { s with result := r }

/-- Set the words still to present. -/
def State.setPending (ws : List OpWord) (s : State) : State := { s with pending := ws }

/-- Drive an output event. -/
def State.emit (e : Event) (s : State) : State := { s with events := e :: s.events }

/-- Record a collaborator read. -/
def State.noteRead (p : Port) (a : Addr) (s : State) : State := { s with reads := (p, a) :: s.reads }

/-- Record a refused word (R109). -/
def State.noteRefusal (w : OpWord) (s : State) : State := { s with refusals := w :: s.refusals }

/-! ### Reading registers and memories -/

/-- The index register of a palette memory. -/
def State.palIndex (m : PalMem) (s : State) : Byte :=
  match m with
  | .bg => s.bcps
  | .obj => s.ocps

/-- An entry of a palette memory. -/
def State.palEntry (m : PalMem) (i : Fin 32) (s : State) : Entry :=
  match m with
  | .bg => s.bgpal[i]
  | .obj => s.objpal[i]

/-- The contents of a VRAM bank (R41). -/
def State.vram (b : Bank) (s : State) : Memory := if b = 0#1 then s.vram0 else s.vram1

/-- `0x8000 ≤ a < 0xA000` (R72). -/
def inVram (a : Addr) : Bool := decide (0x8000#16 ≤ a) && decide (a < 0xA000#16)

/-- The offset of a VRAM address in its bank: `a - 0x8000` (R41). -/
def vramOffset (a : Addr) : Nat := a.toNat - 0x8000

/-- `VRAM[b][a - 0x8000]` (R72). -/
def readVram (b : Bank) (a : Addr) (s : State) : Byte := Memory.read (s.vram b) (vramOffset a)

/-- `VRAM[b][a - 0x8000] <- v`, with TILE_DIRTY(b, a) (R91, R133). -/
def writeVram (b : Bank) (a : Addr) (v : Byte) (s : State) : State :=
  (s.setVram b (Memory.write (s.vram b) (vramOffset a) v)).emit (.tileDirty b a)

/-! ### Faults (R301). A fault is raised in one place; nothing returns from one (R304, R305). -/

/-- `raise Fault(kind, info)`: the effects so far stand, and no value is returned. -/
def raiseFault (f : BlockFault) (s : State) : State := (s.setFault (some f)).setResult none

/-- The frame of every operation: while a fault is set it changes no state, emits no event and returns no value
(R301); otherwise it has its effect. -/
def operation (effect : State → State) (s : State) : Host.Outcome State Fault Refusal :=
  .next (if s.fault.isSome then s.setResult none else effect (s.setResult none))

/-- What a router access yields: the byte of a read, or none after a fault, and the state it leaves. -/
abbrev Fetched := Option Byte × State

/-- A read that yields a byte of the block's own and has no side effect (R76 (c)). -/
def ownByte (v : Byte) (s : State) : Fetched := (some v, s)

/-- A bus read as an operation: the byte is its result; after a fault there is none. -/
def readOperation (access : State → Fetched) (s : State) : Host.Outcome State Fault Refusal :=
  operation (fun s => (access s).2.setResult ((access s).1.map .byte)) s

/-! ### Collaborator ports (R10, R92; logs 10, 11) -/

/-- What the collaborator accessed next answers: the next listed reply, else a free byte and a free failure. -/
def nextReply (s : State) : Reply :=
  match s.replies with
  | r :: _ => r
  | [] => ⟨Config.freeByte s.draws, Config.freeFailure s.draws⟩

/-- The answer is drawn. -/
def takeReply (s : State) : State := { s with replies := s.replies.tail, draws := s.draws + 1 }

/-- `Ext.<port>.read(a)`. -/
def extRead (p : Port) (a : Addr) (s : State) : Fetched := (some (nextReply s).data, (takeReply s).noteRead p a)

/-- `Ext.<port>.write(a, v)`. -/
def extWrite (p : Port) (a : Addr) (v : Byte) (s : State) : State := s.emit (.extWrite p a v)

/-- `Ext.STORE.read(a)`, which may fail (R208, R210). -/
def storeRead (a : Addr) (s : State) : Fetched :=
  if (nextReply s).fails then (none, raiseFault (.storeFail a) ((takeReply s).noteRead .store a))
  else extRead .store a s

/-- `Ext.STORE.write(a, v)`, which may fail; a failed write is no event (R209, R210; vector V44-11). -/
def storeWrite (a : Addr) (v : Byte) (s : State) : State :=
  if (nextReply s).fails then raiseFault (.storeFail a) (takeReply s)
  else extWrite .store a v (takeReply s)

/-! ### Presenting operations (R109; logs 1, 4) -/

/-- The next word the driver presents, and the state without it. -/
def fetch (s : State) : Option (OpWord × State) :=
  match s.pending with
  | [] => none
  | w :: rest => some (w, s.setPending rest)

/-- A word that spells no operation reaches no port: the refusal is recorded, and nothing else changes (R109). -/
def refuseWord (w : OpWord) (s : State) : State := (s.noteRefusal w).setResult none

end Sys2Proof.Machine
end

