-- ==== Sys2Proof/Machine/Operands.lean ====
section
/-! DEFINITION. Operand assembly: the DMA's addresses and length, the fields of a palette index byte, the flat entry
index of RESOLVE, and the fields of command bytes (spec/30_encoding.md R105-R108). Nothing is sign-extended. -/

namespace Sys2Proof.Machine

/-- HdmaSrc from the source halves (R105). -/
def hdmaSrc (h1 h2 : Byte) : Addr := (h1.zeroExtend 16 <<< 8) ||| (h2 &&& 0xF0#8).zeroExtend 16

/-- HdmaDst from the destination halves (R105). -/
def hdmaDst (h3 h4 : Byte) : Addr :=
  0x8000#16 ||| ((h3 &&& 0x1F#8).zeroExtend 16 <<< 8) ||| (h4 &&& 0xF0#8).zeroExtend 16

/-- HdmaChunks of an HDMA5 byte: 1..128 (R105). -/
def hdmaChunks (v : Byte) : Nat := (v &&& 0x7F#8).toNat + 1

/-- HdmaLen of an HDMA5 byte: 16..2048 (R105). -/
def hdmaLen (v : Byte) : Nat := ((v &&& 0x7F#8).toNat + 1) * 16

/-- MODE, bit 7 of an HDMA5 command (R107). -/
def hdmaMode (v : Byte) : Bool := v.getLsbD 7

/-- LEN, bits 6:0 of an HDMA5 byte, as a byte with bit 7 clear (R107). -/
def hdmaLow7 (v : Byte) : Byte := v &&& 0x7F#8

/-- AI, bit 7 of a palette index byte (R106). -/
def autoIncField (raw : Byte) : Bool := raw.getLsbD 7

/-- INDEX, bits 5:1 of a palette index byte: the flat entry index 0..31 (R106). -/
def indexField (raw : Byte) : Fin 32 := (raw.extractLsb' 1 5).toFin

/-- HL, bit 0 of a palette index byte (R106). -/
def hlField (raw : Byte) : Bool := raw.getLsbD 0

/-- The bank a VBK write selects: bit 0 (R107, R130). -/
def bankField (v : Byte) : Bank := v.extractLsb' 0 1

/-- RESOLVE's operands are out of range (R108, R174). -/
def resolveOutOfRange (p c : BitVec 4) : Bool := decide (7#4 < p) || decide (3#4 < c)

/-- The flat index `P*4 + C` of an entry, for P ≤ 7 and C ≤ 3 (spec/10_state.md R40). -/
def flatIndex (p c : BitVec 4) : Fin 32 := Fin.ofNat 32 (p.toNat * 4 + c.toNat)

/-- One byte of an entry replaced: the high byte when HL = 1, else the low byte (R170; the polarity is the spec's own
reading from general knowledge, log 15). -/
def mergeByte (hl : Bool) (e : Entry) (v : Byte) : Entry :=
  if hl then (e &&& 0x00FF#16) ||| (v.zeroExtend 16 <<< 8)
  else (e &&& 0xFF00#16) ||| v.zeroExtend 16

/-- Expand15to24 (spec/43_palette_color.md R176). -/
def expand15to24 (c : BitVec 15) : Rgb24 :=
  let red : Rgb24 := (c &&& 0x1F#15).zeroExtend 24 <<< 3
  let green : Rgb24 := ((c >>> 5) &&& 0x1F#15).zeroExtend 24 <<< 3
  let blue : Rgb24 := ((c >>> 10) &&& 0x1F#15).zeroExtend 24 <<< 3
  (red <<< 16) ||| (green <<< 8) ||| blue

end Sys2Proof.Machine
end

