-- ==== Sys2Proof/Machine/Bank.lean ====
section
/-! DEFINITION. The VRAM bank selector and the three VRAM ports (spec/41_bank_select.md R130-R136). -/

namespace Sys2Proof.Machine

/-- R131: the unused bits read as 1. -/
def vbkByte (s : State) : Byte := 0xFE#8 ||| s.vbk.zeroExtend 8

/-- R130. The source's equality guard is behaviour-neutral (R135). -/
def writeVbk (v : Byte) (s : State) : State := s.setVbk (bankField v)

/-- R132, R134: a read of VRAM through bank `b`, with the range check. -/
def vramPortRead (b : Bank) (a : Addr) (s : State) : State :=
  if inVram a then s.setResult (some (.byte (readVram b a s))) else raiseFault (.vramRange a) s

/-- R133. -/
def vramPortWrite (a : Addr) (v : Byte) (s : State) : State :=
  if inVram a then writeVram s.vbk a v s else raiseFault (.vramRange a) s

/-- RD VBK, R131. -/
def execRdVbk (s : State) : Host.Outcome State Fault Refusal := readOperation (fun s => ownByte (vbkByte s) s) s

/-- WR VBK, R130. -/
def execWrVbk (v : Byte) (s : State) : Host.Outcome State Fault Refusal := operation (writeVbk v) s

/-- VRD, R132. -/
def execVrd (a : Addr) (s : State) : Host.Outcome State Fault Refusal := operation (fun s => vramPortRead s.vbk a s) s

/-- VWR, R133. -/
def execVwr (a : Addr) (v : Byte) (s : State) : Host.Outcome State Fault Refusal := operation (vramPortWrite a v) s

/-- VRDB, R134. -/
def execVrdb (b : Bank) (a : Addr) (s : State) : Host.Outcome State Fault Refusal := operation (vramPortRead b a) s

end Sys2Proof.Machine
end

