-- ==== Sys2Proof/Machine/Collaborators.lean ====
section
/-! DEFINITION. The forwarded accesses: TIMER, AUDIO, LCD, LCDPAL, OAMDMA, BOOT, WRAMBANK, GENERIC
(spec/44_router.md R195-R210). -/

namespace Sys2Proof.Machine

/-- R197: the sound port's byte, or 0x00 while audio is disabled. -/
def readAudio (a : Addr) (s : State) : Fetched :=
  if s.params.audioEnabled then extRead .audio a s else ownByte 0x00#8 s

/-- R198: forwarded, or dropped while audio is disabled. -/
def writeAudio (a : Addr) (v : Byte) (s : State) : State :=
  if s.params.audioEnabled then extWrite .audio a v s else s

/-- R201: forwarded to the LCD port, and CACHE_CLEAR in monochrome mode. -/
def writeLcdPal (a : Addr) (v : Byte) (s : State) : State :=
  if s.params.cgbMode then extWrite .lcd a v s else (extWrite .lcd a v s).emit .cacheClear

/-- R204: 0x01 or 0x11 unmaps a mapped boot ROM; any other write is stored verbatim. -/
def writeBoot (v : Byte) (s : State) : State :=
  if s.bootRomMapped = true ∧ (v = 0x01#8 ∨ v = 0x11#8) then (s.setBootRomMapped false).emit .bootRomUnmap
  else storeWrite 0xFF50#16 v s

/-- RD TIMER, R195. -/
def execRdTimer (a : Addr) (s : State) : Host.Outcome State Fault Refusal := readOperation (extRead .timer a) s

/-- WR TIMER, R196. -/
def execWrTimer (a : Addr) (v : Byte) (s : State) : Host.Outcome State Fault Refusal := operation (extWrite .timer a v) s

/-- RD AUDIO, R197. -/
def execRdAudio (a : Addr) (s : State) : Host.Outcome State Fault Refusal := readOperation (readAudio a) s

/-- WR AUDIO, R198. -/
def execWrAudio (a : Addr) (v : Byte) (s : State) : Host.Outcome State Fault Refusal := operation (writeAudio a v) s

/-- RD LCD, R199. -/
def execRdLcd (a : Addr) (s : State) : Host.Outcome State Fault Refusal := readOperation (extRead .lcd a) s

/-- WR LCD, R200. -/
def execWrLcd (a : Addr) (v : Byte) (s : State) : Host.Outcome State Fault Refusal := operation (extWrite .lcd a v) s

/-- WR LCDPAL, R201. -/
def execWrLcdpal (a : Addr) (v : Byte) (s : State) : Host.Outcome State Fault Refusal := operation (writeLcdPal a v) s

/-- WR OAMDMA, R202. -/
def execWrOamdma (v : Byte) (s : State) : Host.Outcome State Fault Refusal := operation (extWrite .oamDma 0xFF46#16 v) s

/-- RD OAMDMA, R203. -/
def execRdOamdma (s : State) : Host.Outcome State Fault Refusal := readOperation (storeRead 0xFF46#16) s

/-- WR BOOT, R204. -/
def execWrBoot (v : Byte) (s : State) : Host.Outcome State Fault Refusal := operation (writeBoot v) s

/-- RD BOOT, R205. -/
def execRdBoot (s : State) : Host.Outcome State Fault Refusal := readOperation (storeRead 0xFF50#16) s

/-- RD WRAMBANK, R206. -/
def execRdWrambank (s : State) : Host.Outcome State Fault Refusal := readOperation (extRead .wramBank 0xFF70#16) s

/-- WR WRAMBANK, R207. -/
def execWrWrambank (v : Byte) (s : State) : Host.Outcome State Fault Refusal :=
  operation (extWrite .wramBank 0xFF70#16 v) s

/-- RD GENERIC, R208. -/
def execRdGeneric (a : Addr) (s : State) : Host.Outcome State Fault Refusal := readOperation (storeRead a) s

/-- WR GENERIC, R209. -/
def execWrGeneric (a : Addr) (v : Byte) (s : State) : Host.Outcome State Fault Refusal := operation (storeWrite a v) s

end Sys2Proof.Machine
end

