-- ==== Sys2Proof/Machine/Flags.lean ====
section
/-! DEFINITION. The status bits of spec/10_state.md R48 and the rules that write them: the auto-increment step, the
active and terminated forms of HDMA5, the chunk count, and KEY1's two bits. The block has no condition codes. -/

namespace Sys2Proof.Machine

/-- The index byte after an advance (spec/42_palette_index.md R155): AI stays 1, bits 6:0 increment modulo 128; with
AI = 0 nothing changes. -/
def advanceRaw (raw : Byte) : Byte :=
  if autoIncField raw then 0x80#8 ||| ((raw + 1#8) &&& 0x7F#8) else raw

/-- Advance(X) (R155). -/
def advanceIndex (m : PalMem) (s : State) : State := s.setPalIndex m (advanceRaw (s.palIndex m))

/-- HDMA5 after a termination: bit 7 set, the count kept (spec/45_hdma.md R253). -/
def terminatedByte (h5 : Byte) : Byte := (h5 &&& 0x7F#8) ||| 0x80#8

/-- CountDown() (spec/45_hdma.md R259). -/
def countDown (s : State) : State :=
  if hdmaLow7 s.hdma5 = 0#8 then (s.setActive false).setHdma5 0xFF#8
  else s.setHdma5 (s.hdma5 - 1#8)

/-- PENDING, bit 0 of KEY1 (spec/10_state.md R37). -/
def key1Pending (k : Byte) : Bool := k.getLsbD 0

/-- KEY1 after a switch: PENDING cleared, SPEED toggled (spec/46_double_speed.md R282). -/
def key1Switched (k : Byte) : Byte := k ^^^ 0x81#8

end Sys2Proof.Machine
end

