-- ==== Sys2Proof/Machine/HdmaRegisters.lean ====
section
/-! DEFINITION. The address halves HDMA1..HDMA4 and the read of HDMA5 (spec/45_hdma.md R241-R249). -/

namespace Sys2Proof.Machine

/-- R245-R248: a read of an address half raises HDMA_WO_READ. -/
def writeOnlyRead (a : Addr) (s : State) : Fetched := (none, raiseFault (.hdmaWoRead a) s)

/-- WR HDMA1, R241. -/
def execWrHdma1 (v : Byte) (s : State) : Host.Outcome State Fault Refusal := operation (State.setHdma1 v) s

/-- WR HDMA2, R242. -/
def execWrHdma2 (v : Byte) (s : State) : Host.Outcome State Fault Refusal := operation (State.setHdma2 v) s

/-- WR HDMA3, R243. -/
def execWrHdma3 (v : Byte) (s : State) : Host.Outcome State Fault Refusal := operation (State.setHdma3 v) s

/-- WR HDMA4, R244. -/
def execWrHdma4 (v : Byte) (s : State) : Host.Outcome State Fault Refusal := operation (State.setHdma4 v) s

/-- RD HDMA1, R245. -/
def execRdHdma1 (s : State) : Host.Outcome State Fault Refusal := readOperation (writeOnlyRead 0xFF51#16) s

/-- RD HDMA2, R246. -/
def execRdHdma2 (s : State) : Host.Outcome State Fault Refusal := readOperation (writeOnlyRead 0xFF52#16) s

/-- RD HDMA3, R247. -/
def execRdHdma3 (s : State) : Host.Outcome State Fault Refusal := readOperation (writeOnlyRead 0xFF53#16) s

/-- RD HDMA4, R248. -/
def execRdHdma4 (s : State) : Host.Outcome State Fault Refusal := readOperation (writeOnlyRead 0xFF54#16) s

/-- RD HDMA5, R249. -/
def execRdHdma5 (s : State) : Host.Outcome State Fault Refusal := readOperation (fun s => ownByte s.hdma5 s) s

end Sys2Proof.Machine
end

