-- ==== Sys2Proof/Machine/Palette.lean ====
section
/-! DEFINITION. The palette index registers, the palette data ports and the renderer's colour query
(spec/42_palette_index.md R150-R158, spec/43_palette_color.md R170-R177). -/

namespace Sys2Proof.Machine

/-- R151, R153: the router's byte of an index register, bit 6 forced to 1. -/
def indexByte (m : PalMem) (s : State) : Byte := s.palIndex m ||| 0x40#8

/-- R171, R173: the register's `get()`, the whole entry that the index selects. -/
def selectedEntry (m : PalMem) (s : State) : Entry := s.palEntry m (indexField (s.palIndex m))

/-- R171, R173: the byte the 8-bit bus carries, the entry's low byte whatever HL is (D10, log 17). -/
def colourByte (m : PalMem) (s : State) : Byte := (selectedEntry m s).extractLsb' 0 8

/-- R170, R172: replace one byte of the selected entry, emit CACHE_CLEAR, advance the index. -/
def writeColour (m : PalMem) (v : Byte) (s : State) : State :=
  advanceIndex m
    ((s.setPalEntry m (indexField (s.palIndex m)) (mergeByte (hlField (s.palIndex m)) (selectedEntry m s) v)).emit .cacheClear)

/-- R174, R175. -/
def resolveColour (m : PalMem) (p c : BitVec 4) (s : State) : State :=
  if resolveOutOfRange p c then raiseFault (.paletteRange m p c) s
  else s.setResult (some (.colour (expand15to24 ((s.palEntry m (flatIndex p c) &&& 0x7FFF#16).setWidth 15))))

/-- WR BCPS, R150. All eight bits are kept (D15, log 17); the source's equality guard is neutral (R158). -/
def execWrBcps (v : Byte) (s : State) : Host.Outcome State Fault Refusal := operation (State.setPalIndex .bg v) s

/-- RD BCPS, R151. -/
def execRdBcps (s : State) : Host.Outcome State Fault Refusal := readOperation (fun s => ownByte (indexByte .bg s) s) s

/-- WR OCPS, R152. -/
def execWrOcps (v : Byte) (s : State) : Host.Outcome State Fault Refusal := operation (State.setPalIndex .obj v) s

/-- RD OCPS, R153. -/
def execRdOcps (s : State) : Host.Outcome State Fault Refusal := readOperation (fun s => ownByte (indexByte .obj s) s) s

/-- WR BCPD, R170. -/
def execWrBcpd (v : Byte) (s : State) : Host.Outcome State Fault Refusal := operation (writeColour .bg v) s

/-- RD BCPD, R171. -/
def execRdBcpd (s : State) : Host.Outcome State Fault Refusal := readOperation (fun s => ownByte (colourByte .bg s) s) s

/-- WR OCPD, R172. -/
def execWrOcpd (v : Byte) (s : State) : Host.Outcome State Fault Refusal := operation (writeColour .obj v) s

/-- RD OCPD, R173. -/
def execRdOcpd (s : State) : Host.Outcome State Fault Refusal := readOperation (fun s => ownByte (colourByte .obj s) s) s

/-- RESOLVE BG, R174. -/
def execResolveBg (p c : BitVec 4) (s : State) : Host.Outcome State Fault Refusal := operation (resolveColour .bg p c) s

/-- RESOLVE OBJ, R175. -/
def execResolveObj (p c : BitVec 4) (s : State) : Host.Outcome State Fault Refusal := operation (resolveColour .obj p c) s

end Sys2Proof.Machine
end

