-- ==== Sys2Proof/Machine/Speed.lean ====
section
/-! DEFINITION. The double-speed controller (spec/46_double_speed.md R280-R284). -/

namespace Sys2Proof.Machine

/-- R282: a pending switch toggles double_speed, clears PENDING and toggles SPEED; else nothing. -/
def commitSwitch (s : State) : State :=
  if key1Pending s.key1 then (s.setDoubleSpeed (!s.doubleSpeed)).setKey1 (key1Switched s.key1) else s

/-- WR KEY1, R280. -/
def execWrKey1 (v : Byte) (s : State) : Host.Outcome State Fault Refusal := operation (State.setKey1 v) s

/-- RD KEY1, R281. -/
def execRdKey1 (s : State) : Host.Outcome State Fault Refusal := readOperation (fun s => ownByte s.key1 s) s

/-- COMMIT, R282. -/
def execCommit (s : State) : Host.Outcome State Fault Refusal := operation commitSwitch s

end Sys2Proof.Machine
end

