-- ==== Sys2Proof/Machine/SystemBus.lean ====
section
/-! DEFINITION. The router as a whole and the system bus as the DMA master sees it
(spec/44_router.md R190, spec/20_memory.md R71, R80-R82). -/

namespace Sys2Proof.Machine

/-- The addresses R71 puts into ROUTER_WINDOW: those the address map names. -/
def windowMust (a : Addr) : Bool :=
  Addr.within 0xFF04#16 0xFF07#16 a || Addr.within 0xFF10#16 0xFF3F#16 a || Addr.within 0xFF40#16 0xFF4B#16 a
    || a == 0xFF4D#16 || Addr.within 0xFF4F#16 0xFF55#16 a || Addr.within 0xFF68#16 0xFF6B#16 a || a == 0xFF70#16

/-- `a in ROUTER_WINDOW`. R71: the window contains every address the map names and does not meet 0x0000..0xA7FF;
whatever the parameter lists, both hold (log 6). -/
def inRouterWindow (p : Params) (a : Addr) : Bool :=
  decide (0xA7FF#16 < a) && (windowMust a || p.routerWindow.any (fun r => Addr.within r.lo r.hi a))

/-- RouterRead(a) (R190). -/
def routerRead (a : Addr) (s : State) : Fetched :=
  match readHandler s.params.cgbMode a with
  | .timer => extRead .timer a s
  | .audio => readAudio a s
  | .lcd => extRead .lcd a s
  | .oamDma => storeRead 0xFF46#16 s
  | .key1 => ownByte s.key1 s
  | .vbk => ownByte (vbkByte s) s
  | .boot => storeRead 0xFF50#16 s
  | .hdma1 => writeOnlyRead 0xFF51#16 s
  | .hdma2 => writeOnlyRead 0xFF52#16 s
  | .hdma3 => writeOnlyRead 0xFF53#16 s
  | .hdma4 => writeOnlyRead 0xFF54#16 s
  | .hdma5 => ownByte s.hdma5 s
  | .bcps => ownByte (indexByte .bg s) s
  | .bcpd => ownByte (colourByte .bg s) s
  | .ocps => ownByte (indexByte .obj s) s
  | .ocpd => ownByte (colourByte .obj s) s
  | .wramBank => extRead .wramBank 0xFF70#16 s
  | .generic => storeRead a s

/-- RouterWrite(a, v) (R190), with `command` the effect of an HDMA5 write. -/
def routerWriteWith (command : Byte → State → State) (a : Addr) (v : Byte) (s : State) : State :=
  match writeHandler s.params.cgbMode a with
  | .timer => extWrite .timer a v s
  | .audio => writeAudio a v s
  | .lcd => extWrite .lcd a v s
  | .lcdPal => writeLcdPal a v s
  | .oamDma => extWrite .oamDma 0xFF46#16 v s
  | .key1 => s.setKey1 v
  | .vbk => writeVbk v s
  | .boot => writeBoot v s
  | .hdma1 => s.setHdma1 v
  | .hdma2 => s.setHdma2 v
  | .hdma3 => s.setHdma3 v
  | .hdma4 => s.setHdma4 v
  | .hdma5 => command v s
  | .bcps => s.setPalIndex .bg v
  | .bcpd => writeColour .bg v s
  | .ocps => s.setPalIndex .obj v
  | .ocpd => writeColour .obj v s
  | .wramBank => extWrite .wramBank 0xFF70#16 v s
  | .generic => storeWrite a v s

/-- RouterWrite nested in a copy: the engine is not re-entered (D31, R85). No address the engine writes to comes here
(R82; log 14). -/
def nestedWrite (a : Addr) (v : Byte) (s : State) : State := routerWriteWith (fun _ s => s) a v s

/-- MemRead(a, 1) (R81). -/
def memRead (a : Addr) (s : State) : Fetched :=
  if inVram a then ownByte (readVram s.vbk a s) s
  else if inRouterWindow s.params a then routerRead a s
  else extRead .sys a s

/-- MemWrite(a, 1, v) (R81). -/
def memWrite (a : Addr) (v : Byte) (s : State) : State :=
  if inVram a then writeVram s.vbk a v s
  else if inRouterWindow s.params a then nestedWrite a v s
  else extWrite .sys a v s

end Sys2Proof.Machine
end

