-- ==== Sys2Proof/Machine/Hdma.lean ====
section
/-! DEFINITION. The DMA engine: the HDMA5 command and the H-Blank tick (spec/45_hdma.md R240, R250-R264). -/

namespace Sys2Proof.Machine

/-- Copy `n` bytes upward from `src` to `dst`, each read and then written, addresses modulo 2^16; the first fault stops
the copy there (R251, R256; spec/60_exceptions.md R303). -/
def copyBytes : Nat → Addr → Addr → State → State
  | 0, _, _, s => s
  | n + 1, src, dst, s =>
    match memRead src s with
    | (none, s₁) => s₁
    | (some b, s₁) =>
      if (memWrite dst b s₁).fault.isSome then memWrite dst b s₁
      else copyBytes n (src + 1#16) (dst + 1#16) (memWrite dst b s₁)

/-- The five HDMA registers after a completed general-purpose transfer (R251). -/
def setHdmaDone (s : State) : State :=
  ((((s.setHdma1 0xFF#8).setHdma2 0xFF#8).setHdma3 0xFF#8).setHdma4 0xFF#8).setHdma5 0xFF#8

/-- What follows a copy, unless a fault ended it (R303). -/
def afterCopy (rest : State → State) (s : State) : State := if s.fault.isSome then s else rest s

/-- GeneralPurposeTransfer(v) (R251). -/
def generalPurpose (v : Byte) (s : State) : State :=
  afterCopy setHdmaDone (copyBytes (hdmaLen v) (hdmaSrc s.hdma1 s.hdma2) (hdmaDst s.hdma3 s.hdma4) s)

/-- StartPaced(v) (R252). -/
def startPaced (v : Byte) (s : State) : State :=
  ((s.setCursors (hdmaSrc s.hdma1 s.hdma2) (hdmaDst s.hdma3 s.hdma4)).setHdma5 (hdmaLow7 v)).setActive true

/-- Terminate() (R253). -/
def terminate (s : State) : State := (s.setActive false).setHdma5 (terminatedByte s.hdma5)

/-- The count update (R254). -/
def updateCount (v : Byte) (s : State) : State := s.setHdma5 (hdmaLow7 v)

/-- The HDMA5 command (R250). -/
def writeHdma5 (v : Byte) (s : State) : State :=
  if s.transferActive then (if hdmaMode v then updateCount v s else terminate s)
  else (if hdmaMode v then startPaced v s else generalPurpose v s)

/-- CopyChunk() (R256). -/
def copyChunk (s : State) : State :=
  copyBytes 16 (s.curSrc &&& 0xFFF0#16) (0x8000#16 ||| (s.curDst &&& 0x1FF0#16)) s

/-- The source cursor after a chunk (R257). -/
def nextSrc (c : Addr) : Addr := if c + 16#16 = 0x8000#16 then 0xA000#16 else c + 16#16

/-- The destination cursor after a chunk (R257). -/
def nextDst (c : Addr) : Addr := if c + 16#16 = 0xA000#16 then 0x8000#16 else c + 16#16

/-- AdvanceCursors() (R257). -/
def advanceCursors (s : State) : State := s.setCursors (nextSrc s.curSrc) (nextDst s.curDst)

/-- MirrorCursors() (R258). -/
def mirrorCursors (s : State) : State :=
  (((s.setHdma1 (s.curSrc.extractLsb' 8 8)).setHdma2 (s.curSrc.extractLsb' 0 8)).setHdma3
    (s.curDst.extractLsb' 8 8)).setHdma4 (s.curDst.extractLsb' 0 8)

/-- The H-Blank tick (R255). -/
def hblankTick (s : State) : State :=
  if s.transferActive then afterCopy (fun s => countDown (mirrorCursors (advanceCursors s))) (copyChunk s) else s

/-- WR HDMA5, R250. -/
def execWrHdma5 (v : Byte) (s : State) : Host.Outcome State Fault Refusal := operation (writeHdma5 v) s

/-- TICK, R255. -/
def execTick (s : State) : Host.Outcome State Fault Refusal := operation hblankTick s

end Sys2Proof.Machine
end

