-- ==== Sys2Proof/Machine/Reset.lean ====
section
/-! DEFINITION. RESET (spec/70_reset_and_hazards.md R330, R332). -/

namespace Sys2Proof.Machine

/-- The block's state at its reset values; the collaborators, the parameters, the refusal mark and what the driver has
still to present stay, and no event is emitted (R330). -/
def resetBlock (s : State) : State :=
  { s with
    vbk := s.params.resetVbk
    bcps := s.params.resetBcps
    ocps := s.params.resetOcps
    bgpal := Vector.replicate 32 0xFFFF#16
    objpal := Vector.replicate 32 0xFFFF#16
    hdma1 := s.params.resetHdma1
    hdma2 := s.params.resetHdma2
    hdma3 := s.params.resetHdma3
    hdma4 := s.params.resetHdma4
    hdma5 := 0xFF#8
    transferActive := false
    curSrc := s.params.resetCurSrc
    curDst := s.params.resetCurDst
    key1 := s.params.resetKey1
    doubleSpeed := s.params.resetDoubleSpeed
    vram0 := s.params.resetVram0
    vram1 := s.params.resetVram1 }

/-- RESET, R330. While a fault is set it has no effect (R301). -/
def execReset (s : State) : Host.Outcome State Fault Refusal := operation resetBlock s

end Sys2Proof.Machine
end

