-- ==== Sys2Proof/Machine/Dispatch.lean ====
section
/-! DEFINITION. The meaning of every operation: one arm per constructor of `Instr`. -/

namespace Sys2Proof.Machine

def exec (i : Instr) (s : State) : Host.Outcome State Fault Refusal :=
  match i with
  | .rdTimer a => Sys2Proof.Machine.execRdTimer a s
  | .wrTimer a v => Sys2Proof.Machine.execWrTimer a v s
  | .rdAudio a => Sys2Proof.Machine.execRdAudio a s
  | .wrAudio a v => Sys2Proof.Machine.execWrAudio a v s
  | .rdLcd a => Sys2Proof.Machine.execRdLcd a s
  | .wrLcd a v => Sys2Proof.Machine.execWrLcd a v s
  | .wrLcdpal a v => Sys2Proof.Machine.execWrLcdpal a v s
  | .wrOamdma v => Sys2Proof.Machine.execWrOamdma v s
  | .rdOamdma => Sys2Proof.Machine.execRdOamdma s
  | .rdKey1 => Sys2Proof.Machine.execRdKey1 s
  | .wrKey1 v => Sys2Proof.Machine.execWrKey1 v s
  | .rdVbk => Sys2Proof.Machine.execRdVbk s
  | .wrVbk v => Sys2Proof.Machine.execWrVbk v s
  | .wrBoot v => Sys2Proof.Machine.execWrBoot v s
  | .rdBoot => Sys2Proof.Machine.execRdBoot s
  | .wrHdma1 v => Sys2Proof.Machine.execWrHdma1 v s
  | .wrHdma2 v => Sys2Proof.Machine.execWrHdma2 v s
  | .wrHdma3 v => Sys2Proof.Machine.execWrHdma3 v s
  | .wrHdma4 v => Sys2Proof.Machine.execWrHdma4 v s
  | .rdHdma1 => Sys2Proof.Machine.execRdHdma1 s
  | .rdHdma2 => Sys2Proof.Machine.execRdHdma2 s
  | .rdHdma3 => Sys2Proof.Machine.execRdHdma3 s
  | .rdHdma4 => Sys2Proof.Machine.execRdHdma4 s
  | .rdHdma5 => Sys2Proof.Machine.execRdHdma5 s
  | .wrHdma5 v => Sys2Proof.Machine.execWrHdma5 v s
  | .wrBcps v => Sys2Proof.Machine.execWrBcps v s
  | .rdBcps => Sys2Proof.Machine.execRdBcps s
  | .wrOcps v => Sys2Proof.Machine.execWrOcps v s
  | .rdOcps => Sys2Proof.Machine.execRdOcps s
  | .wrBcpd v => Sys2Proof.Machine.execWrBcpd v s
  | .rdBcpd => Sys2Proof.Machine.execRdBcpd s
  | .wrOcpd v => Sys2Proof.Machine.execWrOcpd v s
  | .rdOcpd => Sys2Proof.Machine.execRdOcpd s
  | .rdWrambank => Sys2Proof.Machine.execRdWrambank s
  | .wrWrambank v => Sys2Proof.Machine.execWrWrambank v s
  | .rdGeneric a => Sys2Proof.Machine.execRdGeneric a s
  | .wrGeneric a v => Sys2Proof.Machine.execWrGeneric a v s
  | .vrd a => Sys2Proof.Machine.execVrd a s
  | .vwr a v => Sys2Proof.Machine.execVwr a v s
  | .tick => Sys2Proof.Machine.execTick s
  | .commit => Sys2Proof.Machine.execCommit s
  | .resolveBg p c => Sys2Proof.Machine.execResolveBg p c s
  | .resolveObj p c => Sys2Proof.Machine.execResolveObj p c s
  | .vrdb b a => Sys2Proof.Machine.execVrdb b a s
  | .reset => Sys2Proof.Machine.execReset s

end Sys2Proof.Machine
end

