-- ==== Sys2Proof/Machine/Step.lean ====
section
/-! DEFINITION. One step: the next word the driver presents is decoded under CGB_MODE and performed
(spec/00_scope.md R3, R11; spec/30_encoding.md R102, R104). -/

namespace Sys2Proof.Machine

/-- One operation. With nothing presented the run has ended (D37; log 2). A word that spells no operation is refused:
recorded, the block unchanged, and the run goes on (R109; log 4). -/
def step (s : State) : Host.Outcome State Fault Refusal :=
  match fetch s with
  | none => .fault .endOfRun
  | some (w, s') =>
    match decode s'.params.cgbMode w with
    | .error _ => .next (refuseWord w s')
    | .ok i => exec i s'

/-- The state in which the word `w` (`nbits` bits, those above zero) is the next one presented (log 1). -/
def State.withFetchWord (s : State) (nbits w : Nat) : State :=
  s.setPending (BitVec.ofNat 32 (w % 2 ^ nbits) :: s.pending)

end Sys2Proof.Machine
end

