-- ==== Sys2Proof/Safety.lean ====
section
/-! DEFINITION. The terms claims are stated in: the invariant of spec/10_state.md R49 with the memory's canonical form,
clean runs, what the collaborators answer to a sequence of accesses, copies, and repeated ticks. -/

namespace Sys2Proof.Machine

/-- The invariants of R49, for every state, faulted or not, with the canonical form of the VRAM banks (log 9).
(c) and (d) of R49 hold by the fields' types. -/
structure State.Inv (s : State) : Prop where
  /-- (a), (e): HDMA5 bit 7 reads 1 exactly while Idle -/
  idle_bit : s.hdma5.getLsbD 7 = !s.transferActive
  /-- (b): while Active the source cursor is 16-byte aligned -/
  src_aligned : s.transferActive = true → s.curSrc &&& 0x000F#16 = 0#16
  /-- (b): while Active the destination cursor is 16-byte aligned -/
  dst_aligned : s.transferActive = true → s.curDst &&& 0x000F#16 = 0#16
  /-- (b): while Active the destination cursor is in 0x8000..0x9FF0 -/
  dst_window : s.transferActive = true → 0x8000#16 ≤ s.curDst ∧ s.curDst ≤ 0x9FF0#16
  /-- spec/45_hdma.md R262: in monochrome mode no transfer is active -/
  mono_idle : s.params.cgbMode = false → s.transferActive = false
  vram0_wf : Memory.wf s.vram0 = true
  vram1_wf : Memory.wf s.vram1 = true
  resetVram0_wf : Memory.wf s.params.resetVram0 = true
  resetVram1_wf : Memory.wf s.params.resetVram1 = true

/-- A run that has met no fault and no refused word (R109, R301). -/
def State.clean (s : State) : Bool := s.fault.isNone && s.refusals.isEmpty

/-- The byte the collaborators answer to the `i`-th access drawn from `s` on. -/
def answer (s : State) (i : Nat) : Byte :=
  match s.replies[i]? with
  | some r => r.data
  | none => Config.freeByte (s.draws + i)

/-- The generic store fails the `i`-th access drawn from `s` on (spec/44_router.md R210). -/
def answerFails (s : State) (i : Nat) : Bool :=
  match s.replies[i]? with
  | some r => r.fails
  | none => Config.freeFailure (s.draws + i)

/-- A system bus access of `a` goes to the external SYS port (spec/20_memory.md R81). -/
def isExternal (p : Params) (a : Addr) : Bool := !inVram a && !inRouterWindow p a

/-- The `i`-th address from `base` on, modulo 2^16 (spec/20_memory.md R80). -/
def nth (base : Addr) (i : Nat) : Addr := base + BitVec.ofNat 16 i

/-- The state with bit 6 of both palette index registers set: two states with the same image differ at most in those two
bits (spec/42_palette_index.md R156). -/
def State.forgetBit6 (s : State) : State := { s with bcps := s.bcps ||| 0x40#8, ocps := s.ocps ||| 0x40#8 }

/-- A copy of the DMA engine: `len` bytes upward from `src` to `dst` (spec/45_hdma.md R251, R256). -/
structure Transfer where
  src : Addr
  dst : Addr
  len : Nat
  deriving DecidableEq, Repr

/-- The copy an operation performs in a state without a fault: WR HDMA5 while Idle with v[7] = 0 (R251), and TICK while
Active (R255, R256). -/
def copyOf (i : Instr) (s : State) : Option Transfer :=
  match i with
  | .wrHdma5 v =>
    if s.transferActive || hdmaMode v then none
    else some ⟨hdmaSrc s.hdma1 s.hdma2, hdmaDst s.hdma3 s.hdma4, hdmaLen v⟩
  | .tick =>
    if s.transferActive then some ⟨s.curSrc &&& 0xFFF0#16, 0x8000#16 ||| (s.curDst &&& 0x1FF0#16), 16⟩ else none
  | _ => none

/-- What the engine reads for byte `j` of a copy begun in `s`: byte `j` of the source, after the bytes before it have been
copied (spec/20_memory.md R82, spec/45_hdma.md R264); none where that read faults. -/
def copyRead (c : Transfer) (j : Nat) (s : State) : Option Byte :=
  (memRead (nth c.src j) (copyBytes j c.src c.dst s)).1

/-- From `s` to `t` the whole copy took place: each byte was read, in `t` its place in the active bank holds it if it lies
in VRAM, and the output events added are one per byte, in ascending order: TILE_DIRTY in VRAM, else the byte written to
the SYS port (R81, R91, R251, R256, R263). -/
def Copied (c : Transfer) (s t : State) : Prop :=
  ∃ es, t.events = es ++ s.events ∧ es.length = c.len ∧
    ∀ j < c.len, ∃ x, copyRead c j s = some x ∧
      (inVram (nth c.dst j) = true → readVram s.vbk (nth c.dst j) t = x) ∧
      es.reverse[j]? = some (if inVram (nth c.dst j) then .tileDirty s.vbk (nth c.dst j)
        else .extWrite .sys (nth c.dst j) x)

/-- The operations in which the DMA engine may copy (spec/45_hdma.md R251, R255). -/
def mayCopy (i : Instr) : Prop := i = .tick ∨ ∃ v, i = .wrHdma5 v

/-- The state after `n` ticks, as long as each answers a next state. -/
def afterTicks : Nat → State → State
  | 0, s => s
  | n + 1, s =>
    match exec .tick s with
    | .next t => afterTicks n t
    | .fault _ => s
    | .refused _ => s

end Sys2Proof.Machine
end

