-- ==== Sys2Proof/Certificates/Slice0/Obligations.lean ====
section
/-! DEFINITION. The statements for the provers. Each docstring names the rules of spec/ it formalises. An operation word
is the spec's own device (D2). Addresses, bytes and bits are as in spec/00_scope.md R9. -/

open Sys2Proof Sys2Proof.Machine

/-! ### Encoding and stepping -/

/-- R100, R101, R111 and the rules' encodings: no operand and no bit of an encoding is dropped. -/
def Obligations.DecodeEncodeRoundTrip : Prop :=
  ∀ (cgb : Bool) (i : Instr), WellFormed cgb i = true → decode cgb (encode i) = .ok i

/-- R102, R104: the decoder yields only operations that exist in the colour mode, and each word has one meaning. -/
def Obligations.DecodedWordsReencode : Prop :=
  ∀ (cgb : Bool) (w : OpWord) (i : Instr), decode cgb w = .ok i → WellFormed cgb i = true ∧ encode i = w

/-- R101, R104, R109: exactly the words that spell no operation are refused. -/
def Obligations.RefusedWordsAreThoseOfNoOperation : Prop :=
  ∀ (cgb : Bool) (w : OpWord),
    (∃ e, decode cgb w = .error e) ↔
      (9 ≤ (OpWord.kind w).toNat ∨ OpWord.rsv w ≠ 0#3 ∨
       ((OpWord.kind w).toNat ∉ [6, 7] ∧ OpWord.sel w ≠ 0#1) ∨
       ((OpWord.kind w).toNat ∈ [4, 5, 6, 8] ∧ OpWord.addr w ≠ 0#16) ∨
       ((OpWord.kind w).toNat ∈ [0, 2, 4, 5, 7, 8] ∧ OpWord.data w ≠ 0#8))

/-- One word of every family, written out from the rules' encodings (R100, R101, R111) for the addresses of R191, decodes to
its operation. (That 0xFF47 is a compatibility palette is the spec's choice D34, log 16; the word itself is D2.) -/
def Obligations.SpecWordsDecode : Prop :=
  decode true 0x00FF0500#32 = .ok (.rdTimer 0xFF05#16) ∧ decode true 0x10FF3012#32 = .ok (.wrAudio 0xFF30#16 0x12#8) ∧
  decode false 0x10FF47E4#32 = .ok (.wrLcdpal 0xFF47#16 0xE4#8) ∧ decode true 0x10FF5011#32 = .ok (.wrBoot 0x11#8) ∧
  decode true 0x10FF4F03#32 = .ok (.wrVbk 0x03#8) ∧ decode true 0x309FFF11#32 = .ok (.vwr 0x9FFF#16 0x11#8) ∧
  decode true 0x719FFF00#32 = .ok (.vrdb 1#1 0x9FFF#16) ∧ decode true 0x10FF6887#32 = .ok (.wrBcps 0x87#8) ∧
  decode true 0x10FF6B12#32 = .ok (.wrOcpd 0x12#8) ∧ decode true 0x61000073#32 = .ok (.resolveObj 7#4 3#4) ∧
  decode true 0x10FF5581#32 = .ok (.wrHdma5 0x81#8) ∧ decode true 0x00FF5100#32 = .ok .rdHdma1 ∧
  decode true 0x40000000#32 = .ok .tick ∧ decode true 0x50000000#32 = .ok .commit ∧
  decode true 0x80000000#32 = .ok .reset ∧ decode true 0x00FF0F00#32 = .ok (.rdGeneric 0xFF0F#16)

/-- R191, R192, R193: the row of every bus access, in both colour modes. (The spec decides D9, D11, D12 and D34 itself.) -/
def Obligations.RouterDecodesEveryAddress : Prop :=
  ∀ (cgb : Bool) (a : Addr) (v : Byte),
    decode cgb (OpWord.rd a) = .ok (
      if 0xFF04 ≤ a.toNat ∧ a.toNat ≤ 0xFF07 then .rdTimer a
      else if 0xFF10 ≤ a.toNat ∧ a.toNat ≤ 0xFF3F then .rdAudio a
      else if a.toNat ∈ [0xFF40, 0xFF42, 0xFF43, 0xFF47, 0xFF48, 0xFF49, 0xFF4A, 0xFF4B] then .rdLcd a
      else if a.toNat = 0xFF46 then .rdOamdma
      else if a.toNat = 0xFF50 then .rdBoot
      else if a.toNat = 0xFF70 then .rdWrambank
      else if cgb = false then .rdGeneric a
      else if a.toNat = 0xFF4D then .rdKey1
      else if a.toNat = 0xFF4F then .rdVbk
      else if a.toNat = 0xFF51 then .rdHdma1
      else if a.toNat = 0xFF52 then .rdHdma2
      else if a.toNat = 0xFF53 then .rdHdma3
      else if a.toNat = 0xFF54 then .rdHdma4
      else if a.toNat = 0xFF55 then .rdHdma5
      else if a.toNat = 0xFF68 then .rdBcps
      else if a.toNat = 0xFF69 then .rdBcpd
      else if a.toNat = 0xFF6A then .rdOcps
      else if a.toNat = 0xFF6B then .rdOcpd
      else .rdGeneric a) ∧
    decode cgb (OpWord.wr a v) = .ok (
      if 0xFF04 ≤ a.toNat ∧ a.toNat ≤ 0xFF07 then .wrTimer a v
      else if 0xFF10 ≤ a.toNat ∧ a.toNat ≤ 0xFF3F then .wrAudio a v
      else if a.toNat ∈ [0xFF40, 0xFF42, 0xFF43, 0xFF4A, 0xFF4B] then .wrLcd a v
      else if a.toNat ∈ [0xFF47, 0xFF48, 0xFF49] then .wrLcdpal a v
      else if a.toNat = 0xFF46 then .wrOamdma v
      else if a.toNat = 0xFF50 then .wrBoot v
      else if a.toNat = 0xFF70 then .wrWrambank v
      else if cgb = false then .wrGeneric a v
      else if a.toNat = 0xFF4D then .wrKey1 v
      else if a.toNat = 0xFF4F then .wrVbk v
      else if a.toNat = 0xFF51 then .wrHdma1 v
      else if a.toNat = 0xFF52 then .wrHdma2 v
      else if a.toNat = 0xFF53 then .wrHdma3 v
      else if a.toNat = 0xFF54 then .wrHdma4 v
      else if a.toNat = 0xFF55 then .wrHdma5 v
      else if a.toNat = 0xFF68 then .wrBcps v
      else if a.toNat = 0xFF69 then .wrBcpd v
      else if a.toNat = 0xFF6A then .wrOcps v
      else if a.toNat = 0xFF6B then .wrOcpd v
      else .wrGeneric a v)

/-- R3, R102: a step performs the operation that the next presented word spells under CGB_MODE, and presents it once.
(The list of presented words is the model's, log 1.) -/
def Obligations.StepPerformsTheDecodedOperation : Prop :=
  ∀ (s : State) (w : OpWord) (rest : List OpWord) (i : Instr),
    s.pending = w :: rest → decode s.params.cgbMode w = .ok i → step s = exec i { s with pending := rest }

/-- R109: a word that spells no operation changes nothing but the refusal mark, and the run goes on. (How the mark is
kept is the model's, log 4.) -/
def Obligations.RefusedWordLeavesTheBlockAlone : Prop :=
  ∀ (s : State) (w : OpWord) (rest : List OpWord) (e : DecodeError),
    s.pending = w :: rest → decode s.params.cgbMode w = .error e →
    step s = .next { s with pending := rest, refusals := w :: s.refusals, result := none }

/-! ### Reset -/

/-- R332, R330: the values at the start of a run. The OPEN values are the parameters', which the model names
(logs 5 to 9). -/
def Obligations.RunStartsInTheResetState : Prop :=
  (∀ i : Fin 32, State.reset.bgpal[i] = 0xFFFF#16 ∧ State.reset.objpal[i] = 0xFFFF#16) ∧
  State.reset.hdma5 = 0xFF#8 ∧ State.reset.transferActive = false ∧ State.reset.fault = none ∧
  State.reset.vbk = State.reset.params.resetVbk ∧ State.reset.bcps = State.reset.params.resetBcps ∧
  State.reset.ocps = State.reset.params.resetOcps ∧ State.reset.hdma1 = State.reset.params.resetHdma1 ∧
  State.reset.hdma2 = State.reset.params.resetHdma2 ∧ State.reset.hdma3 = State.reset.params.resetHdma3 ∧
  State.reset.hdma4 = State.reset.params.resetHdma4 ∧ State.reset.key1 = State.reset.params.resetKey1 ∧
  State.reset.doubleSpeed = State.reset.params.resetDoubleSpeed ∧
  State.reset.vram0 = State.reset.params.resetVram0 ∧ State.reset.vram1 = State.reset.params.resetVram1

/-- R330: RESET restores every piece of the block's state, emits no event and does not touch the collaborators, the
parameters or the refusal mark. (That the OPEN values are parameters is D25; the cursors, log 8.) -/
def Obligations.ResetRestoresTheBlock : Prop :=
  ∀ s : State, s.fault = none → ∃ t, exec .reset s = .next t ∧
    (∀ i : Fin 32, t.bgpal[i] = 0xFFFF#16 ∧ t.objpal[i] = 0xFFFF#16) ∧
    t = { s with
      vbk := s.params.resetVbk, bcps := s.params.resetBcps, ocps := s.params.resetOcps, bgpal := t.bgpal,
      objpal := t.objpal, hdma1 := s.params.resetHdma1, hdma2 := s.params.resetHdma2, hdma3 := s.params.resetHdma3,
      hdma4 := s.params.resetHdma4, hdma5 := 0xFF#8, transferActive := false, curSrc := t.curSrc, curDst := t.curDst,
      key1 := s.params.resetKey1, doubleSpeed := s.params.resetDoubleSpeed, vram0 := s.params.resetVram0,
      vram1 := s.params.resetVram1, result := none }

/-! ### Faults -/

/-- R301, R305 (D23): while a fault is set every operation, RESET included, changes no state, emits no event and returns
no value. -/
def Obligations.FaultedBlockIgnoresEveryOperation : Prop :=
  ∀ (i : Instr) (s : State), s.fault ≠ none → exec i s = .next { s with result := none }

/-- R300, R303, R210 (D23): the four faults, and no other, each under its condition only. In a copy the faulting address
is one the copy reads, through the router. (The store's failures are the model's answers, logs 10, 11.) -/
def Obligations.FaultsComeOnlyFromTheirConditions : Prop :=
  ∀ (i : Instr) (s t : State) (f : BlockFault), s.fault = none → exec i s = .next t → t.fault = some f →
    match f with
    | .vramRange a => ¬ (0x8000 ≤ a.toNat ∧ a.toNat < 0xA000) ∧ (i = .vrd a ∨ (∃ v, i = .vwr a v) ∨ ∃ b, i = .vrdb b a)
    | .paletteRange m p c =>
      (7 < p.toNat ∨ 3 < c.toNat) ∧ ((m = .bg ∧ i = .resolveBg p c) ∨ (m = .obj ∧ i = .resolveObj p c))
    | .hdmaWoRead a =>
      (i = .rdHdma1 ∧ a = 0xFF51#16) ∨ (i = .rdHdma2 ∧ a = 0xFF52#16) ∨ (i = .rdHdma3 ∧ a = 0xFF53#16) ∨
      (i = .rdHdma4 ∧ a = 0xFF54#16) ∨
      (s.params.cgbMode = true ∧ 0xFF51 ≤ a.toNat ∧ a.toNat ≤ 0xFF54 ∧
       ∃ c k, copyOf i s = some c ∧ k < c.len ∧ a = nth c.src k)
    | .storeFail a =>
      (answerFails s 0 = true ∧
        (i = .rdGeneric a ∨ (∃ v, i = .wrGeneric a v) ∨ (i = .rdOamdma ∧ a = 0xFF46#16) ∨ (i = .rdBoot ∧ a = 0xFF50#16) ∨
         (∃ v, i = .wrBoot v ∧ a = 0xFF50#16 ∧ ¬ (s.bootRomMapped = true ∧ (v = 0x01#8 ∨ v = 0x11#8))))) ∨
      (∃ c k n, copyOf i s = some c ∧ k < c.len ∧ a = nth c.src k ∧ inVram a = false ∧
        inRouterWindow s.params a = true ∧ n ≤ k ∧ answerFails s n = true)

/-- R132, R133, R134, R300, R301: outside the window the three VRAM ports raise VRAM_RANGE with the address, and nothing
else changes. -/
def Obligations.VramPortsFaultOutsideTheWindow : Prop :=
  ∀ (s : State) (a : Addr) (v : Byte) (b : Bank), s.fault = none → ¬ (0x8000 ≤ a.toNat ∧ a.toNat < 0xA000) →
    exec (.vrd a) s = .next { s with fault := some (.vramRange a), result := none } ∧
    exec (.vwr a v) s = .next { s with fault := some (.vramRange a), result := none } ∧
    exec (.vrdb b a) s = .next { s with fault := some (.vramRange a), result := none }

/-- R174, R175, R303: RESOLVE out of range raises PALETTE_RANGE, and nothing else changes. -/
def Obligations.ResolveFaultsOutOfRange : Prop :=
  ∀ (s : State) (p c : BitVec 4), s.fault = none → (7 < p.toNat ∨ 3 < c.toNat) →
    exec (.resolveBg p c) s = .next { s with fault := some (.paletteRange .bg p c), result := none } ∧
    exec (.resolveObj p c) s = .next { s with fault := some (.paletteRange .obj p c), result := none }

/-- R245-R248 (D22, and D9 for the monochrome word; log 17): a colour-mode read of an address half raises HDMA_WO_READ with its address, returns no byte and
changes nothing else; in monochrome mode the address goes to the generic store. -/
def Obligations.AddressHalfReadsFault : Prop :=
  (decode true 0x00FF5100#32 = .ok .rdHdma1 ∧ decode true 0x00FF5200#32 = .ok .rdHdma2 ∧
   decode true 0x00FF5300#32 = .ok .rdHdma3 ∧ decode true 0x00FF5400#32 = .ok .rdHdma4 ∧
   decode false 0x00FF5100#32 = .ok (.rdGeneric 0xFF51#16)) ∧
  ∀ s : State, s.fault = none →
    exec .rdHdma1 s = .next { s with fault := some (.hdmaWoRead 0xFF51#16), result := none } ∧
    exec .rdHdma2 s = .next { s with fault := some (.hdmaWoRead 0xFF52#16), result := none } ∧
    exec .rdHdma3 s = .next { s with fault := some (.hdmaWoRead 0xFF53#16), result := none } ∧
    exec .rdHdma4 s = .next { s with fault := some (.hdmaWoRead 0xFF54#16), result := none }

/-- R210 (D24): when the store reports failure, each access that reaches it raises STORE_FAIL with the address; a read
returns nothing and a write is no event. (The answer is drawn from the model's list, or is free: logs 10, 11.) -/
def Obligations.StoreFailureFaults : Prop :=
  ∀ (s : State) (a : Addr) (v : Byte), s.fault = none → answerFails s 0 = true →
    let failed := fun (a : Addr) (reads : List (Port × Addr)) =>
      ({ s with replies := s.replies.tail, draws := s.draws + 1, reads := reads, fault := some (.storeFail a), result := none } : State)
    exec (.rdGeneric a) s = .next (failed a ((.store, a) :: s.reads)) ∧
    exec (.wrGeneric a v) s = .next (failed a s.reads) ∧
    exec .rdOamdma s = .next (failed 0xFF46#16 ((.store, 0xFF46#16) :: s.reads)) ∧
    exec .rdBoot s = .next (failed 0xFF50#16 ((.store, 0xFF50#16) :: s.reads)) ∧
    (¬ (s.bootRomMapped = true ∧ (v = 0x01#8 ∨ v = 0x11#8)) → exec (.wrBoot v) s = .next (failed 0xFF50#16 s.reads))

/-! ### VRAM bank selector and VRAM ports -/

/-- R130: WR VBK keeps only bit 0 of the byte; nothing else changes and nothing is emitted. (That the word is a store write
in monochrome mode is the spec's choice D9, R192; log 17.) -/
def Obligations.VbkWriteSelectsTheBank : Prop :=
  (∀ v : Byte, decode true (0x10FF4F00#32 ||| v.zeroExtend 32) = .ok (.wrVbk v) ∧
    decode false (0x10FF4F00#32 ||| v.zeroExtend 32) = .ok (.wrGeneric 0xFF4F#16 v)) ∧
  ∀ (s : State) (v : Byte), s.fault = none →
    exec (.wrVbk v) s = .next { s with vbk := v.extractLsb' 0 1, result := none }

/-- R131: RD VBK returns 0xFE or 0xFF, the unused bits read as 1; nothing changes. (That the word is a store read in
monochrome mode is the spec's choice D9, R192; log 17.) -/
def Obligations.VbkReadShowsTheBank : Prop :=
  decode true 0x00FF4F00#32 = .ok .rdVbk ∧ decode false 0x00FF4F00#32 = .ok (.rdGeneric 0xFF4F#16) ∧
  ∀ s : State, s.fault = none →
    exec .rdVbk s = .next { s with result := some (.byte (if s.vbk = 0#1 then 0xFE#8 else 0xFF#8)) }

/-- R132, R134, R88: in the window VRD returns the byte of the active bank and VRDB that of the named bank, whatever VBK
is; nothing changes. -/
def Obligations.VramReadsReturnTheBankByte : Prop :=
  ∀ (s : State) (a : Addr) (b : Bank), s.fault = none → 0x8000 ≤ a.toNat → a.toNat < 0xA000 →
    exec (.vrd a) s = .next { s with result := some (.byte (readVram s.vbk a s)) } ∧
    exec (.vrdb b a) s = .next { s with result := some (.byte (readVram b a s)) } ∧
    readVram b a s = Memory.read (if b = 0#1 then s.vram0 else s.vram1) (a.toNat - 0x8000)

/-- R133, R91: in the window VWR writes the one byte in the active bank and emits TILE_DIRTY; every other byte of both
banks and everything else is unchanged. -/
def Obligations.VramWriteChangesOneByte : Prop :=
  ∀ (s : State) (a : Addr) (v : Byte), s.Inv → s.fault = none → 0x8000 ≤ a.toNat → a.toNat < 0xA000 →
    ∃ t, exec (.vwr a v) s = .next t ∧
      readVram s.vbk a t = v ∧
      (∀ (b : Bank) (a' : Addr), inVram a' = true → (b ≠ s.vbk ∨ a' ≠ a) → readVram b a' t = readVram b a' s) ∧
      t = { s with vram0 := t.vram0, vram1 := t.vram1, events := .tileDirty s.vbk a :: s.events, result := none }

/-! ### Palettes -/

/-- R150, R152 (all eight bits kept: D15): an index write stores the byte in its own register and changes nothing else. -/
def Obligations.PaletteIndexWriteStoresTheByte : Prop :=
  (∀ v : Byte, decode true (0x10FF6800#32 ||| v.zeroExtend 32) = .ok (.wrBcps v) ∧
    decode true (0x10FF6A00#32 ||| v.zeroExtend 32) = .ok (.wrOcps v)) ∧
  ∀ (s : State) (v : Byte), s.fault = none →
    exec (.wrBcps v) s = .next { s with bcps := v, result := none } ∧
    exec (.wrOcps v) s = .next { s with ocps := v, result := none }

/-- R151, R153: an index read returns the stored byte with bit 6 forced to 1; nothing changes. (That the words are store
reads in monochrome mode is the spec's choice D9, R192; log 17.) -/
def Obligations.PaletteIndexReadForcesBitSix : Prop :=
  (decode true 0x00FF6800#32 = .ok .rdBcps ∧ decode true 0x00FF6A00#32 = .ok .rdOcps ∧
   decode false 0x00FF6800#32 = .ok (.rdGeneric 0xFF68#16) ∧ decode false 0x00FF6A00#32 = .ok (.rdGeneric 0xFF6A#16)) ∧
  ∀ s : State, s.fault = none →
    exec .rdBcps s = .next { s with result := some (.byte (s.bcps ||| 0x40#8)) } ∧
    exec .rdOcps s = .next { s with result := some (.byte (s.ocps ||| 0x40#8)) }

/-- R155: the auto-increment step, and that no operation but an index write, a data-port write and RESET changes an
index register (in particular no read does). -/
def Obligations.AutoIncrementStep : Prop :=
  (∀ (m : PalMem) (s : State), (s.palIndex m).getLsbD 7 = false → advanceIndex m s = s) ∧
  (∀ (m : PalMem) (s : State), (s.palIndex m).getLsbD 7 = true →
    advanceIndex m s = s.setPalIndex m (0x80#8 ||| ((s.palIndex m + 1#8) &&& 0x7F#8)) ∧
    (advanceIndex m s).palIndex m = 0x80#8 ||| ((s.palIndex m + 1#8) &&& 0x7F#8)) ∧
  (∀ raw : Byte, raw.getLsbD 7 = true →
    (advanceRaw raw).getLsbD 7 = true ∧
    (advanceRaw raw).toNat % 128 = (raw.toNat % 128 + 1) % 128 ∧
    hlField (advanceRaw raw) = !hlField raw ∧
    (indexField (advanceRaw raw)).val = (if hlField raw then ((indexField raw).val + 1) % 32 else (indexField raw).val)) ∧
  (∀ (i : Instr) (s t : State), exec i s = .next t →
    (t.bcps ≠ s.bcps → i = .reset ∨ (∃ v, i = .wrBcps v) ∨ ∃ v, i = .wrBcpd v) ∧
    (t.ocps ≠ s.ocps → i = .reset ∨ (∃ v, i = .wrOcps v) ∨ ∃ v, i = .wrOcpd v))

/-- R170, R172 (HL = 1 selects the high byte: D16, log 15): a data-port write replaces one byte of the entry in force,
keeps the other byte and every other entry, emits CACHE_CLEAR and advances the index. -/
def Obligations.PaletteDataWriteReplacesOneByte : Prop :=
  ∀ (s : State) (v : Byte), s.fault = none →
    (∃ t, exec (.wrBcpd v) s = .next t ∧
      t.bgpal[indexField s.bcps] = (if s.bcps.getLsbD 0 then v ++ (s.bgpal[indexField s.bcps]).extractLsb' 0 8
        else (s.bgpal[indexField s.bcps]).extractLsb' 8 8 ++ v) ∧
      (∀ i : Fin 32, i ≠ indexField s.bcps → t.bgpal[i] = s.bgpal[i]) ∧
      t = { s with bgpal := t.bgpal, bcps := advanceRaw s.bcps, events := .cacheClear :: s.events, result := none }) ∧
    (∃ t, exec (.wrOcpd v) s = .next t ∧
      t.objpal[indexField s.ocps] = (if s.ocps.getLsbD 0 then v ++ (s.objpal[indexField s.ocps]).extractLsb' 0 8
        else (s.objpal[indexField s.ocps]).extractLsb' 8 8 ++ v) ∧
      (∀ i : Fin 32, i ≠ indexField s.ocps → t.objpal[i] = s.objpal[i]) ∧
      t = { s with objpal := t.objpal, ocps := advanceRaw s.ocps, events := .cacheClear :: s.events, result := none })

/-- R171, R173 (the low byte: D10): a data-port read returns the entry's low byte whatever HL is, and does not advance. -/
def Obligations.PaletteDataReadReturnsTheLowByte : Prop :=
  ∀ s : State, s.fault = none →
    exec .rdBcpd s = .next { s with result := some (.byte ((s.bgpal[indexField s.bcps]).extractLsb' 0 8)) } ∧
    exec .rdOcpd s = .next { s with result := some (.byte ((s.objpal[indexField s.ocps]).extractLsb' 0 8)) }

/-- R174, R175, R40, R88 (4-bit operands: D33): RESOLVE returns the expansion of bits 14:0 of entry P*4 + C of its own
memory; nothing changes. -/
def Obligations.ResolveReturnsTheExpandedColour : Prop :=
  ∀ (s : State) (p c : BitVec 4) (i : Fin 32), s.fault = none → p.toNat ≤ 7 → c.toNat ≤ 3 →
    i.val = p.toNat * 4 + c.toNat →
    exec (.resolveBg p c) s = .next { s with result := some (.colour (expand15to24 ((s.bgpal[i]).extractLsb' 0 15))) } ∧
    exec (.resolveObj p c) s = .next { s with result := some (.colour (expand15to24 ((s.objpal[i]).extractLsb' 0 15))) }

/-- R176: each 5-bit channel goes to the top of its 8-bit channel; red, the lowest five input bits, is at 23:16. -/
def Obligations.ColourExpansionIsExact : Prop :=
  ∀ c : BitVec 15,
    (expand15to24 c).toNat =
      (c.toNat % 32 * 8) * 65536 + (c.toNat / 32 % 32 * 8) * 256 + c.toNat / 1024 % 32 * 8 ∧
    expand15to24 c &&& 0x070707#24 = 0#24

/-- R156: two states that differ only in bit 6 of the index registers give the same results, events and states, up to
those bits, for every later operation. -/
def Obligations.IndexBitSixIsNeverObservable : Prop :=
  ∀ s₁ s₂ t₁ : State, s₁.forgetBit6 = s₂.forgetBit6 → step s₁ = .next t₁ →
    ∃ t₂, step s₂ = .next t₂ ∧ t₁.forgetBit6 = t₂.forgetBit6 ∧ t₁.result = t₂.result ∧ t₁.events = t₂.events

/-! ### Forwarded accesses -/

/-- R195, R196: in both modes the timer registers are a direct pass-through; the block keeps nothing of them. The byte
read is the collaborator's (the model's list of answers, log 10). -/
def Obligations.TimerIsPassedThrough : Prop :=
  (∀ (cgb : Bool) (a : Addr) (v : Byte), 0xFF04 ≤ a.toNat → a.toNat ≤ 0xFF07 →
    decode cgb (OpWord.rd a) = .ok (.rdTimer a) ∧ decode cgb (OpWord.wr a v) = .ok (.wrTimer a v)) ∧
  ∀ (s : State) (a : Addr) (v : Byte), s.fault = none →
    exec (.rdTimer a) s = .next { s with replies := s.replies.tail, draws := s.draws + 1,
                                         reads := (.timer, a) :: s.reads, result := some (.byte (answer s 0)) } ∧
    exec (.wrTimer a v) s = .next { s with events := .extWrite .timer a v :: s.events, result := none }

/-- R197, R198 (the full address: D14): audio is forwarded while enabled; disabled, reads return 0x00 and writes are
dropped with no effect. -/
def Obligations.AudioIsGatedByItsFlag : Prop :=
  ∀ (s : State) (a : Addr) (v : Byte), s.fault = none →
    (s.params.audioEnabled = true →
      exec (.rdAudio a) s = .next { s with replies := s.replies.tail, draws := s.draws + 1,
                                           reads := (.audio, a) :: s.reads, result := some (.byte (answer s 0)) } ∧
      exec (.wrAudio a v) s = .next { s with events := .extWrite .audio a v :: s.events, result := none }) ∧
    (s.params.audioEnabled = false →
      exec (.rdAudio a) s = .next { s with result := some (.byte 0x00#8) } ∧
      exec (.wrAudio a v) s = .next { s with result := none })

/-- R199, R200: the LCD control and position registers are passed through in both modes, and their writes clear no
cache; the compatibility palettes are read the same way. -/
def Obligations.LcdIsPassedThrough : Prop :=
  (∀ (cgb : Bool) (a : Addr) (v : Byte),
    (a.toNat ∈ [0xFF40, 0xFF42, 0xFF43, 0xFF47, 0xFF48, 0xFF49, 0xFF4A, 0xFF4B] →
      decode cgb (OpWord.rd a) = .ok (.rdLcd a)) ∧
    (a.toNat ∈ [0xFF40, 0xFF42, 0xFF43, 0xFF4A, 0xFF4B] → decode cgb (OpWord.wr a v) = .ok (.wrLcd a v))) ∧
  ∀ (s : State) (a : Addr) (v : Byte), s.fault = none →
    exec (.rdLcd a) s = .next { s with replies := s.replies.tail, draws := s.draws + 1,
                                       reads := (.lcd, a) :: s.reads, result := some (.byte (answer s 0)) } ∧
    exec (.wrLcd a v) s = .next { s with events := .extWrite .lcd a v :: s.events, result := none }

/-- R201 (which addresses: D34, log 16): a compatibility palette write goes to the LCD port, and in monochrome mode
clears the cache. -/
def Obligations.LcdPaletteWriteClearsTheCacheInMono : Prop :=
  ∀ (s : State) (a : Addr) (v : Byte), s.fault = none →
    (s.params.cgbMode = true →
      exec (.wrLcdpal a v) s = .next { s with events := .extWrite .lcd a v :: s.events, result := none }) ∧
    (s.params.cgbMode = false →
      exec (.wrLcdpal a v) s = .next { s with events := .cacheClear :: .extWrite .lcd a v :: s.events, result := none })

/-- R202, R203, R206, R207 (D11, D13): the OAM DMA trigger is forwarded and its address is read from the store; the WRAM
bank register is passed through. -/
def Obligations.OamDmaAndWramBankAreForwarded : Prop :=
  ∀ (s : State) (v : Byte), s.fault = none →
    exec (.wrOamdma v) s = .next { s with events := .extWrite .oamDma 0xFF46#16 v :: s.events, result := none } ∧
    (answerFails s 0 = false →
      exec .rdOamdma s = .next { s with replies := s.replies.tail, draws := s.draws + 1,
                                        reads := (.store, 0xFF46#16) :: s.reads, result := some (.byte (answer s 0)) }) ∧
    exec .rdWrambank s = .next { s with replies := s.replies.tail, draws := s.draws + 1,
                                        reads := (.wramBank, 0xFF70#16) :: s.reads,
                                        result := some (.byte (answer s 0)) } ∧
    exec (.wrWrambank v) s = .next { s with events := .extWrite .wramBank 0xFF70#16 v :: s.events, result := none }

/-- R204, R205 (D12, D26): writing 0x01 or 0x11 while the boot ROM is mapped unmaps it and stores nothing; any other
write is stored verbatim, and a read comes from the store. -/
def Obligations.BootRomDisableIsOneShot : Prop :=
  ∀ (s : State) (v : Byte), s.fault = none →
    (s.bootRomMapped = true → v = 0x01#8 ∨ v = 0x11#8 →
      exec (.wrBoot v) s = .next { s with bootRomMapped := false, events := .bootRomUnmap :: s.events, result := none }) ∧
    (answerFails s 0 = false →
      (s.bootRomMapped = false ∨ (v ≠ 0x01#8 ∧ v ≠ 0x11#8) →
        exec (.wrBoot v) s = .next { s with replies := s.replies.tail, draws := s.draws + 1,
                                            events := .extWrite .store 0xFF50#16 v :: s.events, result := none }) ∧
      exec .rdBoot s = .next { s with replies := s.replies.tail, draws := s.draws + 1,
                                      reads := (.store, 0xFF50#16) :: s.reads, result := some (.byte (answer s 0)) })

/-- R208, R209 (D24): an address no other row names is forwarded verbatim to the generic store, when the store does not
fail. -/
def Obligations.OtherAddressesGoToTheStore : Prop :=
  ∀ (s : State) (a : Addr) (v : Byte), s.fault = none → answerFails s 0 = false →
    exec (.rdGeneric a) s = .next { s with replies := s.replies.tail, draws := s.draws + 1,
                                           reads := (.store, a) :: s.reads, result := some (.byte (answer s 0)) } ∧
    exec (.wrGeneric a v) s = .next { s with replies := s.replies.tail, draws := s.draws + 1,
                                             events := .extWrite .store a v :: s.events, result := none }

/-! ### DMA registers -/

/-- R241, R242, R243, R244: an address-half write stores all eight bits and changes nothing else, the cursors included;
HdmaSrc uses all of HDMA1 and ignores HDMA2[3:0]; HdmaDst ignores HDMA3[7:5], for which it has 100, and HDMA4[3:0]. -/
def Obligations.AddressHalfWritesStoreTheByte : Prop :=
  (∀ v : Byte, decode true (0x10FF5100#32 ||| v.zeroExtend 32) = .ok (.wrHdma1 v) ∧
    decode true (0x10FF5200#32 ||| v.zeroExtend 32) = .ok (.wrHdma2 v) ∧
    decode true (0x10FF5300#32 ||| v.zeroExtend 32) = .ok (.wrHdma3 v) ∧
    decode true (0x10FF5400#32 ||| v.zeroExtend 32) = .ok (.wrHdma4 v)) ∧
  (∀ (s : State) (v : Byte), s.fault = none →
    exec (.wrHdma1 v) s = .next { s with hdma1 := v, result := none } ∧
    exec (.wrHdma2 v) s = .next { s with hdma2 := v, result := none } ∧
    exec (.wrHdma3 v) s = .next { s with hdma3 := v, result := none } ∧
    exec (.wrHdma4 v) s = .next { s with hdma4 := v, result := none }) ∧
  (∀ h1 h2 h3 h4 : Byte, (hdmaSrc h1 h2).extractLsb' 8 8 = h1 ∧ hdmaSrc h1 h2 = hdmaSrc h1 (h2 &&& 0xF0#8) ∧
    hdmaDst h3 h4 = hdmaDst (h3 &&& 0x1F#8) (h4 &&& 0xF0#8) ∧ (hdmaDst h3 h4).extractLsb' 8 8 = 0x80#8 ||| (h3 &&& 0x1F#8))

/-- R249: RD HDMA5 returns the stored byte; nothing changes. (That the word is a store read in monochrome mode is the
spec's choice D9, R192; log 17.) -/
def Obligations.Hdma5ReadReturnsTheStoredByte : Prop :=
  decode true 0x00FF5500#32 = .ok .rdHdma5 ∧ decode false 0x00FF5500#32 = .ok (.rdGeneric 0xFF55#16) ∧
  ∀ s : State, s.fault = none → exec .rdHdma5 s = .next { s with result := some (.byte s.hdma5) }

/-- R105: the engine's addresses and lengths from the register bytes, as numbers, with their ranges. -/
def Obligations.DmaOperandAssembly : Prop :=
  ∀ h1 h2 h3 h4 v : Byte,
    (hdmaSrc h1 h2).toNat = h1.toNat * 256 + h2.toNat / 16 * 16 ∧
    (hdmaDst h3 h4).toNat = 0x8000 + h3.toNat % 32 * 256 + h4.toNat / 16 * 16 ∧
    hdmaLen v = (v.toNat % 128 + 1) * 16 ∧ hdmaChunks v = v.toNat % 128 + 1

/-! ### The DMA engine -/

/-- R252: StartPaced loads the cursors and the count and enters Active; no byte is copied and HDMA1..HDMA4 stay. -/
def Obligations.PacedStartLoadsTheCursors : Prop :=
  (∀ v : Byte, decode true (0x10FF5500#32 ||| v.zeroExtend 32) = .ok (.wrHdma5 v)) ∧
  ∀ (s : State) (v : Byte), s.fault = none → s.transferActive = false → v.getLsbD 7 = true →
    exec (.wrHdma5 v) s = .next { s with
      curSrc := hdmaSrc s.hdma1 s.hdma2, curDst := hdmaDst s.hdma3 s.hdma4, hdma5 := v &&& 0x7F#8,
      transferActive := true, result := none }

/-- R253: Terminate goes Idle at once, copies nothing, sets bit 7 and keeps the remaining count, whatever v[6:0] is;
cursors and halves stay. -/
def Obligations.TerminationKeepsTheCount : Prop :=
  (∀ v : Byte, decode true (0x10FF5500#32 ||| v.zeroExtend 32) = .ok (.wrHdma5 v)) ∧
  ∀ (s : State) (v : Byte), s.fault = none → s.transferActive = true → v.getLsbD 7 = false →
    exec (.wrHdma5 v) s = .next { s with
      transferActive := false, hdma5 := (s.hdma5 &&& 0x7F#8) ||| 0x80#8, result := none }

/-- R254: a count update while Active replaces the low seven bits of HDMA5, bit 7 staying 0, and nothing else, the
cursors included; (v & 0x7F) + 1 chunks remain. -/
def Obligations.CountUpdateDoesNotRestart : Prop :=
  (∀ v : Byte, decode true (0x10FF5500#32 ||| v.zeroExtend 32) = .ok (.wrHdma5 v) ∧
    (v &&& 0x7F#8).getLsbD 7 = false ∧ hdmaChunks (v &&& 0x7F#8) = v.toNat % 128 + 1) ∧
  ∀ (s : State) (v : Byte), s.fault = none → s.transferActive = true → v.getLsbD 7 = true →
    exec (.wrHdma5 v) s = .next { s with hdma5 := v &&& 0x7F#8, result := none }

/-- R240, R250: the state machine. After any operation that raises no fault the controller is Active exactly as the
transition table says. -/
def Obligations.ControllerTransitions : Prop :=
  ∀ (i : Instr) (s t : State), s.fault = none → exec i s = .next t → t.fault = none →
    match i with
    | .wrHdma5 v => t.transferActive = v.getLsbD 7
    | .tick => t.transferActive = (s.transferActive && (s.hdma5 &&& 0x7F#8) != 0#8)
    | .reset => t.transferActive = false
    | _ => t.transferActive = s.transferActive

/-- R81, R82 (D8): the engine reads VRAM in the active bank, any other address outside the router window from the SYS
port, and an address of the window exactly as a bus read of it does: with the same byte, the same side effects and the
same fault. (The window beyond the addresses the map names: log 6.) -/
def Obligations.DmaReadsAreRoutedByTheMap : Prop :=
  ∀ (s : State) (a : Addr), s.fault = none → s.result = none →
    (inVram a = true → memRead a s = (some (readVram s.vbk a s), s)) ∧
    (isExternal s.params a = true → memRead a s =
      (some (answer s 0), { s with replies := s.replies.tail, draws := s.draws + 1, reads := (.sys, a) :: s.reads })) ∧
    (inVram a = false → inRouterWindow s.params a = true →
      ∃ i, decode s.params.cgbMode (OpWord.rd a) = .ok i ∧
        exec i s = .next { (memRead a s).2 with result := (memRead a s).1.map .byte })

/-- R82, R71: every output of WR HDMA5 and TICK, whatever the state, is a TILE_DIRTY of the active bank in the VRAM window
or, from a general-purpose transfer, a SYS write at 0xA000..0xA7EF; no register but those of the DMA is written. Whatever
the window is, no byte of either copy loop goes to it, and a paced one always to VRAM. -/
def Obligations.DmaWritesNeverReachTheRouter : Prop :=
  (∀ (i : Instr) (s t : State), mayCopy i → exec i s = .next t →
    (∃ es, t.events = es ++ s.events ∧ ∀ e ∈ es,
      (∃ a, e = .tileDirty s.vbk a ∧ inVram a = true) ∨
      (∃ v a x, i = .wrHdma5 v ∧ e = .extWrite .sys a x ∧ 0xA000 ≤ a.toNat ∧ a.toNat ≤ 0xA7EF)) ∧
    t = { s with
      hdma1 := t.hdma1, hdma2 := t.hdma2, hdma3 := t.hdma3, hdma4 := t.hdma4, hdma5 := t.hdma5,
      transferActive := t.transferActive, curSrc := t.curSrc, curDst := t.curDst, vram0 := t.vram0, vram1 := t.vram1,
      fault := t.fault, replies := t.replies, draws := t.draws, reads := t.reads, events := t.events,
      result := none }) ∧
  (∀ (p : Params) (h3 h4 v : Byte) (i : Nat), i < hdmaLen v →
    0x8000 ≤ (nth (hdmaDst h3 h4) i).toNat ∧ (nth (hdmaDst h3 h4) i).toNat ≤ 0xA7EF ∧
    inRouterWindow p (nth (hdmaDst h3 h4) i) = false) ∧
  (∀ (c : Addr) (i : Nat), i < 16 → inVram (nth (0x8000#16 ||| (c &&& 0x1FF0#16)) i) = true)

/-- R251, R263, R81 (D17, D20): a general-purpose transfer whose source lies on the external bus. Byte i goes to
dst + i, to VRAM with TILE_DIRTY or beyond it to the external bus, in ascending order; the five registers become 0xFF;
nothing else changes. -/
def Obligations.GeneralPurposeCopiesExternalBytes : Prop :=
  ∀ (s : State) (v : Byte) (src dst : Addr) (len : Nat), s.Inv → s.fault = none → s.transferActive = false →
    v.getLsbD 7 = false → src = hdmaSrc s.hdma1 s.hdma2 → dst = hdmaDst s.hdma3 s.hdma4 → len = hdmaLen v →
    (∀ i < len, isExternal s.params (nth src i) = true) →
    ∃ t, exec (.wrHdma5 v) s = .next t ∧
      (∀ i < len, inVram (nth dst i) = true → readVram s.vbk (nth dst i) t = answer s i) ∧
      (∀ (b : Bank) (a : Addr), inVram a = true → (b ≠ s.vbk ∨ ∀ i < len, a ≠ nth dst i) →
        readVram b a t = readVram b a s) ∧
      t = { s with
        hdma1 := 0xFF#8, hdma2 := 0xFF#8, hdma3 := 0xFF#8, hdma4 := 0xFF#8, hdma5 := 0xFF#8,
        vram0 := t.vram0, vram1 := t.vram1, replies := s.replies.drop len, draws := s.draws + len,
        reads := ((List.range len).map fun i => (Port.sys, nth src i)).reverse ++ s.reads,
        events := ((List.range len).map fun i =>
          if inVram (nth dst i) then Event.tileDirty s.vbk (nth dst i)
          else Event.extWrite .sys (nth dst i) (answer s i)).reverse ++ s.events,
        result := none }

/-- R251, R82, R261, R263, R264 (D8, D17, D20): whatever its source (VRAM, the router, the external bus, or a mixture), a
general-purpose transfer that meets no fault copies every byte as it is read, in ascending order, with one output event
per byte; it leaves the five registers 0xFF, and changes no other register of the block, no byte outside its destination,
and nothing in the other bank. -/
def Obligations.GeneralPurposeFrame : Prop :=
  ∀ (s t : State) (v : Byte), s.Inv → s.fault = none → s.transferActive = false → v.getLsbD 7 = false →
    exec (.wrHdma5 v) s = .next t → t.fault = none →
      Copied ⟨hdmaSrc s.hdma1 s.hdma2, hdmaDst s.hdma3 s.hdma4, hdmaLen v⟩ { s with result := none } t ∧
      (∀ (b : Bank) (a : Addr), inVram a = true →
        (b ≠ s.vbk ∨ ∀ i < hdmaLen v, a ≠ nth (hdmaDst s.hdma3 s.hdma4) i) → readVram b a t = readVram b a s) ∧
      t = { s with
        hdma1 := 0xFF#8, hdma2 := 0xFF#8, hdma3 := 0xFF#8, hdma4 := 0xFF#8, hdma5 := 0xFF#8,
        vram0 := t.vram0, vram1 := t.vram1, replies := t.replies, draws := t.draws, reads := t.reads,
        events := t.events, result := none }

/-- R303, R251, R255: the first faulting access stops a copy. A fault comes from the read of some byte k of it: the bytes
before k have been copied, in order, and the state is the one that read left, so no access follows it; byte k and those
after it are not written, and the address halves, HDMA5, transfer_active and the cursors are as they were. -/
def Obligations.FaultInsideACopyStopsIt : Prop :=
  ∀ (i : Instr) (s t : State) (f : BlockFault), s.Inv → s.fault = none → mayCopy i → exec i s = .next t →
    t.fault = some f →
      t = { s with
        vram0 := t.vram0, vram1 := t.vram1, replies := t.replies, draws := t.draws, reads := t.reads,
        events := t.events, fault := some f, result := none } ∧
      ∃ c k, copyOf i s = some c ∧ k < c.len ∧
        (copyBytes k c.src c.dst { s with result := none }).fault = none ∧
        memRead (nth c.src k) (copyBytes k c.src c.dst { s with result := none }) = (none, t) ∧
        (∀ j < k, inVram (nth c.dst j) = true →
          (memRead (nth c.src j) (copyBytes j c.src c.dst { s with result := none })).1 =
            some (readVram s.vbk (nth c.dst j) t)) ∧
        (∀ (b : Bank) (a : Addr), inVram a = true → (b ≠ s.vbk ∨ ∀ j < k, a ≠ nth c.dst j) →
          readVram b a t = readVram b a s) ∧
        ∃ es, t.events = es ++ s.events ∧ es.length = k

/-- R264 (D17): the copy is ascending, each byte read before it is written. A general-purpose transfer within the active
bank to 16 bytes above its source repeats the first 16 bytes. -/
def Obligations.OverlappingCopyRepeatsTheFirstChunk : Prop :=
  ∀ (s : State) (v : Byte) (src : Addr), s.Inv → s.fault = none → s.transferActive = false → v.getLsbD 7 = false →
    src = hdmaSrc s.hdma1 s.hdma2 → hdmaDst s.hdma3 s.hdma4 = src + 16#16 → 0x8000 ≤ src.toNat →
    src.toNat + 16 + hdmaLen v ≤ 0xA000 →
    ∃ t, exec (.wrHdma5 v) s = .next t ∧ t.fault = none ∧ t.hdma5 = 0xFF#8 ∧
      ∀ i < hdmaLen v, readVram s.vbk (nth (src + 16#16) i) t = readVram s.vbk (nth src (i % 16)) s

/-- R345, R251: in colour mode a general-purpose transfer whose source covers 0xFF51 faults. -/
def Obligations.CopyFromTheAddressHalvesFaults : Prop :=
  ∀ (s t : State) (v : Byte), s.fault = none → s.transferActive = false → v.getLsbD 7 = false →
    s.params.cgbMode = true → (∃ i < hdmaLen v, nth (hdmaSrc s.hdma1 s.hdma2) i = 0xFF51#16) →
    exec (.wrHdma5 v) s = .next t → t.fault ≠ none

/-- R255-R259, R264 (D8, D18, D19, D21): a tick while Idle does nothing; a tick while Active that meets no fault copies the
16 bytes at the source cursor, each as it is read, in ascending order, with its TILE_DIRTY, steps the cursors with their
wraps, mirrors them into the halves, counts down, and, whatever its source, changes no other register
and no byte of VRAM outside the chunk's destination. -/
def Obligations.TickStepsTheCursorsAndTheCount : Prop :=
  (∀ s : State, s.fault = none → s.transferActive = false → exec .tick s = .next { s with result := none }) ∧
  (∀ s t : State, s.Inv → s.fault = none → s.transferActive = true → exec .tick s = .next t → t.fault = none →
    t.curSrc = (if s.curSrc + 16#16 = 0x8000#16 then 0xA000#16 else s.curSrc + 16#16) ∧
    t.curDst = (if s.curDst + 16#16 = 0xA000#16 then 0x8000#16 else s.curDst + 16#16) ∧
    t.transferActive = (s.hdma5 != 0#8) ∧ t.hdma5 = (if s.hdma5 = 0#8 then 0xFF#8 else s.hdma5 - 1#8) ∧
    hdmaSrc t.hdma1 t.hdma2 = t.curSrc ∧ hdmaDst t.hdma3 t.hdma4 = t.curDst ∧
    Copied ⟨s.curSrc, s.curDst, 16⟩ { s with result := none } t ∧
    (∀ i < 16, inVram (nth s.curDst i) = true) ∧
    (∀ (b : Bank) (a : Addr), inVram a = true → (b ≠ s.vbk ∨ ∀ i < 16, a ≠ nth s.curDst i) →
      readVram b a t = readVram b a s) ∧
    t = { s with
      curSrc := t.curSrc, curDst := t.curDst, transferActive := t.transferActive, hdma5 := t.hdma5,
      hdma1 := t.curSrc.extractLsb' 8 8, hdma2 := t.curSrc.extractLsb' 0 8,
      hdma3 := t.curDst.extractLsb' 8 8, hdma4 := t.curDst.extractLsb' 0 8,
      vram0 := t.vram0, vram1 := t.vram1, replies := t.replies, draws := t.draws, reads := t.reads,
      events := t.events, result := none })

/-- R256, R81, R91 (D18): a tick while Active whose source chunk lies on the external bus copies exactly 16 bytes to the
destination cursor in the active bank, in ascending order, and changes no other byte. -/
def Obligations.TickCopiesOneExternalChunk : Prop :=
  ∀ s : State, s.Inv → s.fault = none → s.transferActive = true →
    (∀ i < 16, isExternal s.params (nth s.curSrc i) = true) →
    ∃ t, exec .tick s = .next t ∧ t.fault = none ∧
      (∀ i < 16, readVram s.vbk (nth s.curDst i) t = answer s i) ∧
      (∀ (b : Bank) (a : Addr), inVram a = true → (b ≠ s.vbk ∨ ∀ i < 16, a ≠ nth s.curDst i) →
        readVram b a t = readVram b a s) ∧
      t.events = ((List.range 16).map fun i => Event.tileDirty s.vbk (nth s.curDst i)).reverse ++ s.events ∧
      t.replies = s.replies.drop 16 ∧ t.draws = s.draws + 16

/-- R259, R252, R347: a paced transfer started with count n and left alone, meeting no fault, is Active with n - k left
after k ≤ n ticks, and Idle with HDMA5 = 0xFF after n + 1. -/
def Obligations.PacedTransferEndsAfterCountPlusOneTicks : Prop :=
  ∀ (s u : State) (v : Byte), s.Inv → s.fault = none → s.transferActive = false → s.params.cgbMode = true →
    v.getLsbD 7 = true → exec (.wrHdma5 v) s = .next u → (afterTicks (hdmaChunks v) u).fault = none →
      (∀ k < hdmaChunks v, (afterTicks k u).transferActive = true ∧
        (afterTicks k u).hdma5.toNat = v.toNat % 128 - k) ∧
      (afterTicks (hdmaChunks v) u).transferActive = false ∧ (afterTicks (hdmaChunks v) u).hdma5 = 0xFF#8

/-! ### Double speed -/

/-- R280, R281: KEY1 is stored and read back verbatim; a write changes nothing else, double_speed included. (That the
words are store accesses in monochrome mode is the spec's choice D9, R192; log 17.) -/
def Obligations.Key1IsStoredVerbatim : Prop :=
  (decode true 0x00FF4D00#32 = .ok .rdKey1 ∧ decode false 0x00FF4D00#32 = .ok (.rdGeneric 0xFF4D#16) ∧
   ∀ v : Byte, decode true (0x10FF4D00#32 ||| v.zeroExtend 32) = .ok (.wrKey1 v) ∧
     decode false (0x10FF4D00#32 ||| v.zeroExtend 32) = .ok (.wrGeneric 0xFF4D#16 v)) ∧
  ∀ (s : State) (v : Byte), s.fault = none →
    exec (.wrKey1 v) s = .next { s with key1 := v, result := none } ∧
    exec .rdKey1 s = .next { s with result := some (.byte s.key1) }

/-- R282: in either mode a commit with PENDING set toggles double_speed and SPEED and clears PENDING, so that a second
commit is a no-op; with PENDING clear it does nothing. -/
def Obligations.CommitSwitchesThePendingSpeed : Prop :=
  (∀ cgb : Bool, decode cgb 0x50000000#32 = .ok .commit) ∧
  (∀ s : State, s.fault = none → s.key1.getLsbD 0 = true →
    exec .commit s = .next { s with doubleSpeed := !s.doubleSpeed, key1 := s.key1 ^^^ 0x81#8, result := none } ∧
    (s.key1 ^^^ 0x81#8).getLsbD 0 = false ∧ (s.key1 ^^^ 0x81#8).getLsbD 7 = !s.key1.getLsbD 7 ∧
    (s.key1 ^^^ 0x81#8) &&& 0x7E#8 = s.key1 &&& 0x7E#8) ∧
  (∀ s : State, s.fault = none → s.key1.getLsbD 0 = false → exec .commit s = .next { s with result := none })

/-- R283, R330: of all operations only COMMIT, and RESET, change double_speed. -/
def Obligations.OnlyCommitAndResetChangeTheSpeed : Prop :=
  ∀ (i : Instr) (s t : State), exec i s = .next t → t.doubleSpeed ≠ s.doubleSpeed → i = .commit ∨ i = .reset

/-! ### Whole-machine rules -/

/-- R49 (a), (b), (e), R262 and the canonical form of memory: every step keeps the invariant, from every state that meets
it. -/
def Obligations.EveryStepKeepsTheInvariant : Prop :=
  ∀ s t : State, s.Inv → step s = .next t → t.Inv

/-- The invariant holds at the start of a run (with the parameters the model names, logs 5 to 9). -/
def Obligations.ResetStateMeetsTheInvariant : Prop := State.reset.Inv

/-- R46, R301, R109, D6, D37: no step changes a parameter, clears a fault, or takes back an event, a recorded read or a
refusal. -/
def Obligations.NoStepTakesAnythingBack : Prop :=
  ∀ s t : State, step s = .next t →
    t.params = s.params ∧ (∀ f, s.fault = some f → t.fault = some f) ∧ (∃ es, t.events = es ++ s.events) ∧
    (∃ rs, t.reads = rs ++ s.reads) ∧ (∃ ws, t.refusals = ws ++ s.refusals) ∧
    (∃ n, t.replies = s.replies.drop n ∧ t.draws = s.draws + n)

/-- R90 (D27): CACHE_CLEAR is emitted once by every BCPD or OCPD write and by every compatibility palette write in
monochrome mode, and by nothing else. -/
def Obligations.CacheClearIsEmittedExactlyThen : Prop :=
  ∀ (i : Instr) (s t : State), s.fault = none → exec i s = .next t →
    t.events.count .cacheClear = s.events.count .cacheClear +
      (match i with
       | .wrBcpd _ => 1
       | .wrOcpd _ => 1
       | .wrLcdpal _ _ => if s.params.cgbMode then 0 else 1
       | _ => 0)

/-- R91 (D28): no VRAM byte changes without its TILE_DIRTY (but by RESET, which emits nothing), and every TILE_DIRTY names
a window address in the active bank. -/
def Obligations.VramChangesAreAnnounced : Prop :=
  ∀ (i : Instr) (s t : State), s.Inv → exec i s = .next t → i ≠ .reset →
    ∃ es, t.events = es ++ s.events ∧
      (∀ (b : Bank) (a : Addr), inVram a = true → readVram b a t ≠ readVram b a s → .tileDirty b a ∈ es) ∧
      (∀ (b : Bank) (a : Addr), .tileDirty b a ∈ es → inVram a = true ∧ b = s.vbk)

/-- R192, R136, R262, R284 (D9, log 17): in monochrome mode no word but RESET reaches VBK, the palettes, their index registers or the
DMA registers, and none but RESET and COMMIT reaches KEY1 and double_speed. -/
def Obligations.MonochromeModeReachesNoColourRegister : Prop :=
  ∀ (s t : State) (w : OpWord) (rest : List OpWord), s.params.cgbMode = false → s.transferActive = false →
    s.pending = w :: rest → w ≠ 0x80000000#32 → step s = .next t →
      t.vbk = s.vbk ∧ t.bcps = s.bcps ∧ t.ocps = s.ocps ∧ t.bgpal = s.bgpal ∧ t.objpal = s.objpal ∧
      t.hdma1 = s.hdma1 ∧ t.hdma2 = s.hdma2 ∧ t.hdma3 = s.hdma3 ∧ t.hdma4 = s.hdma4 ∧ t.hdma5 = s.hdma5 ∧
      t.transferActive = false ∧ t.curSrc = s.curSrc ∧ t.curDst = s.curDst ∧
      (w ≠ 0x50000000#32 → t.key1 = s.key1 ∧ t.doubleSpeed = s.doubleSpeed)
end

