-- ==== Sys2Proof/Laws/Memory.lean ====
section
/-! SUPPORT. The laws of a VRAM bank as a list of cells: every write keeps the canonical form, a read after a write to
the same offset gives the byte written, and every other offset reads as before. -/

namespace Sys2Proof.Machine

@[simp] theorem Memory.read_nil (k : Nat) : Memory.read [] k = Memory.unlisted := rfl

theorem Memory.read_cons_cell (k' : Nat) (x : Byte) (m : Memory) (k : Nat) :
    Memory.read ((k', x) :: m) k = if k' = k then x else Memory.read m k := rfl

theorem Memory.wfFrom_cons (lo k : Nat) (v : Byte) (m : Memory) :
    Memory.wfFrom lo ((k, v) :: m) = true ↔
      lo ≤ k ∧ k < Memory.size ∧ v ≠ Memory.unlisted ∧ Memory.wfFrom (k + 1) m = true := by
  simp [Memory.wfFrom, and_assoc]

theorem Memory.wfFrom_mono {lo lo' : Nat} (h : lo' ≤ lo) {m : Memory} (hm : Memory.wfFrom lo m = true) :
    Memory.wfFrom lo' m = true := by
  cases m with
  | nil => rfl
  | cons c m =>
    obtain ⟨k, v⟩ := c
    rw [Memory.wfFrom_cons] at hm ⊢
    exact ⟨le_trans h hm.1, hm.2⟩

/-- Below the least listed offset nothing is listed. -/
theorem Memory.read_below {lo : Nat} {m : Memory} (hm : Memory.wfFrom lo m = true) {k : Nat} (hk : k < lo) :
    Memory.read m k = Memory.unlisted := by
  induction m generalizing lo with
  | nil => rfl
  | cons c m ih =>
    obtain ⟨k', x⟩ := c
    rw [Memory.wfFrom_cons] at hm
    rw [Memory.read_cons_cell, if_neg (by omega)]
    exact ih hm.2.2.2 (by omega)

theorem Memory.read_cons (k : Nat) (v : Byte) {lo : Nat} {m : Memory} (hm : Memory.wfFrom lo m = true) (hk : k < lo)
    (j : Nat) : Memory.read (Memory.cons k v m) j = if j = k then v else Memory.read m j := by
  unfold Memory.cons
  split
  · rename_i hv
    split
    · subst hv; rename_i hj; subst hj; exact Memory.read_below hm hk
    · rfl
  · rw [Memory.read_cons_cell]
    by_cases hj : j = k
    · simp [hj]
    · rw [if_neg (fun h => hj h.symm), if_neg hj]

theorem Memory.wfFrom_cons_cell {lo k : Nat} {v : Byte} {m : Memory} (hlo : lo ≤ k) (hk : k < Memory.size)
    (hm : Memory.wfFrom (k + 1) m = true) : Memory.wfFrom lo (Memory.cons k v m) = true := by
  unfold Memory.cons
  split
  · exact Memory.wfFrom_mono (by omega) hm
  · rename_i hv
    rw [Memory.wfFrom_cons]
    exact ⟨hlo, hk, hv, hm⟩

theorem Memory.wfFrom_write {lo k : Nat} {v : Byte} {m : Memory} (hlo : lo ≤ k) (hk : k < Memory.size)
    (hm : Memory.wfFrom lo m = true) : Memory.wfFrom lo (Memory.write m k v) = true := by
  induction m generalizing lo with
  | nil => exact Memory.wfFrom_cons_cell hlo hk rfl
  | cons c m ih =>
    obtain ⟨k', x⟩ := c
    have hm' := hm
    rw [Memory.wfFrom_cons] at hm'
    unfold Memory.write
    split
    · rename_i hlt
      refine Memory.wfFrom_cons_cell hlo hk ?_
      rw [Memory.wfFrom_cons]
      exact ⟨by omega, hm'.2⟩
    · split
      · rename_i heq; subst heq
        exact Memory.wfFrom_cons_cell hlo hk hm'.2.2.2
      · rw [Memory.wfFrom_cons]
        exact ⟨hm'.1, hm'.2.1, hm'.2.2.1, ih (by omega) hm'.2.2.2⟩

/-- Every write keeps the canonical form. -/
theorem Memory.wf_write {k : Nat} {v : Byte} {m : Memory} (hk : k < Memory.size) (hm : Memory.wf m = true) :
    Memory.wf (Memory.write m k v) = true :=
  Memory.wfFrom_write (Nat.zero_le _) hk hm

theorem Memory.read_writeFrom {lo : Nat} {m : Memory} (hm : Memory.wfFrom lo m = true) (k : Nat) (v : Byte) (j : Nat) :
    Memory.read (Memory.write m k v) j = if j = k then v else Memory.read m j := by
  induction m generalizing lo with
  | nil => exact Memory.read_cons k v (lo := k + 1) rfl (by omega) j
  | cons c m ih =>
    obtain ⟨k', x⟩ := c
    have hm' := hm
    rw [Memory.wfFrom_cons] at hm'
    unfold Memory.write
    split
    · rename_i hlt
      exact Memory.read_cons k v (lo := k') (by rw [Memory.wfFrom_cons]; exact ⟨le_refl _, hm'.2⟩) hlt j
    · split
      · rename_i heq; subst heq
        rw [Memory.read_cons k v hm'.2.2.2 (by omega), Memory.read_cons_cell]
        by_cases hj : j = k
        · simp [hj]
        · rw [if_neg hj, if_neg hj, if_neg (fun h => hj h.symm)]
      · rename_i hne
        rw [Memory.read_cons_cell, Memory.read_cons_cell, ih hm'.2.2.2]
        by_cases hj : k' = j
        · rw [if_pos hj, if_pos hj, if_neg (by omega)]
        · rw [if_neg hj, if_neg hj]

/-- Read after write: the offset written reads as the byte written, every other as before. -/
theorem Memory.read_write {m : Memory} (hm : Memory.wf m = true) (k : Nat) (v : Byte) (j : Nat) :
    Memory.read (Memory.write m k v) j = if j = k then v else Memory.read m j :=
  Memory.read_writeFrom hm k v j

end Sys2Proof.Machine
end

