-- ==== Sys2Proof/Laws/State.lean ====
section
/-! SUPPORT. One lemma per field per single-field update of `State`, so that no proof unfolds a record update. -/

namespace Sys2Proof.Machine

section
variable (s : State)

/-! ### setVbk -/

@[simp] theorem State.setVbk_params (b : Bank) : (s.setVbk b).params = s.params := rfl
@[simp] theorem State.setVbk_vbk (b : Bank) : (s.setVbk b).vbk = b := rfl
@[simp] theorem State.setVbk_bcps (b : Bank) : (s.setVbk b).bcps = s.bcps := rfl
@[simp] theorem State.setVbk_ocps (b : Bank) : (s.setVbk b).ocps = s.ocps := rfl
@[simp] theorem State.setVbk_bgpal (b : Bank) : (s.setVbk b).bgpal = s.bgpal := rfl
@[simp] theorem State.setVbk_objpal (b : Bank) : (s.setVbk b).objpal = s.objpal := rfl
@[simp] theorem State.setVbk_hdma1 (b : Bank) : (s.setVbk b).hdma1 = s.hdma1 := rfl
@[simp] theorem State.setVbk_hdma2 (b : Bank) : (s.setVbk b).hdma2 = s.hdma2 := rfl
@[simp] theorem State.setVbk_hdma3 (b : Bank) : (s.setVbk b).hdma3 = s.hdma3 := rfl
@[simp] theorem State.setVbk_hdma4 (b : Bank) : (s.setVbk b).hdma4 = s.hdma4 := rfl
@[simp] theorem State.setVbk_hdma5 (b : Bank) : (s.setVbk b).hdma5 = s.hdma5 := rfl
@[simp] theorem State.setVbk_transferActive (b : Bank) : (s.setVbk b).transferActive = s.transferActive := rfl
@[simp] theorem State.setVbk_curSrc (b : Bank) : (s.setVbk b).curSrc = s.curSrc := rfl
@[simp] theorem State.setVbk_curDst (b : Bank) : (s.setVbk b).curDst = s.curDst := rfl
@[simp] theorem State.setVbk_key1 (b : Bank) : (s.setVbk b).key1 = s.key1 := rfl
@[simp] theorem State.setVbk_doubleSpeed (b : Bank) : (s.setVbk b).doubleSpeed = s.doubleSpeed := rfl
@[simp] theorem State.setVbk_vram0 (b : Bank) : (s.setVbk b).vram0 = s.vram0 := rfl
@[simp] theorem State.setVbk_vram1 (b : Bank) : (s.setVbk b).vram1 = s.vram1 := rfl
@[simp] theorem State.setVbk_fault (b : Bank) : (s.setVbk b).fault = s.fault := rfl
@[simp] theorem State.setVbk_bootRomMapped (b : Bank) : (s.setVbk b).bootRomMapped = s.bootRomMapped := rfl
@[simp] theorem State.setVbk_pending (b : Bank) : (s.setVbk b).pending = s.pending := rfl
@[simp] theorem State.setVbk_refusals (b : Bank) : (s.setVbk b).refusals = s.refusals := rfl
@[simp] theorem State.setVbk_replies (b : Bank) : (s.setVbk b).replies = s.replies := rfl
@[simp] theorem State.setVbk_draws (b : Bank) : (s.setVbk b).draws = s.draws := rfl
@[simp] theorem State.setVbk_events (b : Bank) : (s.setVbk b).events = s.events := rfl
@[simp] theorem State.setVbk_reads (b : Bank) : (s.setVbk b).reads = s.reads := rfl
@[simp] theorem State.setVbk_result (b : Bank) : (s.setVbk b).result = s.result := rfl

/-! ### setHdma1 -/

@[simp] theorem State.setHdma1_params (v : Byte) : (s.setHdma1 v).params = s.params := rfl
@[simp] theorem State.setHdma1_vbk (v : Byte) : (s.setHdma1 v).vbk = s.vbk := rfl
@[simp] theorem State.setHdma1_bcps (v : Byte) : (s.setHdma1 v).bcps = s.bcps := rfl
@[simp] theorem State.setHdma1_ocps (v : Byte) : (s.setHdma1 v).ocps = s.ocps := rfl
@[simp] theorem State.setHdma1_bgpal (v : Byte) : (s.setHdma1 v).bgpal = s.bgpal := rfl
@[simp] theorem State.setHdma1_objpal (v : Byte) : (s.setHdma1 v).objpal = s.objpal := rfl
@[simp] theorem State.setHdma1_hdma1 (v : Byte) : (s.setHdma1 v).hdma1 = v := rfl
@[simp] theorem State.setHdma1_hdma2 (v : Byte) : (s.setHdma1 v).hdma2 = s.hdma2 := rfl
@[simp] theorem State.setHdma1_hdma3 (v : Byte) : (s.setHdma1 v).hdma3 = s.hdma3 := rfl
@[simp] theorem State.setHdma1_hdma4 (v : Byte) : (s.setHdma1 v).hdma4 = s.hdma4 := rfl
@[simp] theorem State.setHdma1_hdma5 (v : Byte) : (s.setHdma1 v).hdma5 = s.hdma5 := rfl
@[simp] theorem State.setHdma1_transferActive (v : Byte) : (s.setHdma1 v).transferActive = s.transferActive := rfl
@[simp] theorem State.setHdma1_curSrc (v : Byte) : (s.setHdma1 v).curSrc = s.curSrc := rfl
@[simp] theorem State.setHdma1_curDst (v : Byte) : (s.setHdma1 v).curDst = s.curDst := rfl
@[simp] theorem State.setHdma1_key1 (v : Byte) : (s.setHdma1 v).key1 = s.key1 := rfl
@[simp] theorem State.setHdma1_doubleSpeed (v : Byte) : (s.setHdma1 v).doubleSpeed = s.doubleSpeed := rfl
@[simp] theorem State.setHdma1_vram0 (v : Byte) : (s.setHdma1 v).vram0 = s.vram0 := rfl
@[simp] theorem State.setHdma1_vram1 (v : Byte) : (s.setHdma1 v).vram1 = s.vram1 := rfl
@[simp] theorem State.setHdma1_fault (v : Byte) : (s.setHdma1 v).fault = s.fault := rfl
@[simp] theorem State.setHdma1_bootRomMapped (v : Byte) : (s.setHdma1 v).bootRomMapped = s.bootRomMapped := rfl
@[simp] theorem State.setHdma1_pending (v : Byte) : (s.setHdma1 v).pending = s.pending := rfl
@[simp] theorem State.setHdma1_refusals (v : Byte) : (s.setHdma1 v).refusals = s.refusals := rfl
@[simp] theorem State.setHdma1_replies (v : Byte) : (s.setHdma1 v).replies = s.replies := rfl
@[simp] theorem State.setHdma1_draws (v : Byte) : (s.setHdma1 v).draws = s.draws := rfl
@[simp] theorem State.setHdma1_events (v : Byte) : (s.setHdma1 v).events = s.events := rfl
@[simp] theorem State.setHdma1_reads (v : Byte) : (s.setHdma1 v).reads = s.reads := rfl
@[simp] theorem State.setHdma1_result (v : Byte) : (s.setHdma1 v).result = s.result := rfl

/-! ### setHdma2 -/

@[simp] theorem State.setHdma2_params (v : Byte) : (s.setHdma2 v).params = s.params := rfl
@[simp] theorem State.setHdma2_vbk (v : Byte) : (s.setHdma2 v).vbk = s.vbk := rfl
@[simp] theorem State.setHdma2_bcps (v : Byte) : (s.setHdma2 v).bcps = s.bcps := rfl
@[simp] theorem State.setHdma2_ocps (v : Byte) : (s.setHdma2 v).ocps = s.ocps := rfl
@[simp] theorem State.setHdma2_bgpal (v : Byte) : (s.setHdma2 v).bgpal = s.bgpal := rfl
@[simp] theorem State.setHdma2_objpal (v : Byte) : (s.setHdma2 v).objpal = s.objpal := rfl
@[simp] theorem State.setHdma2_hdma1 (v : Byte) : (s.setHdma2 v).hdma1 = s.hdma1 := rfl
@[simp] theorem State.setHdma2_hdma2 (v : Byte) : (s.setHdma2 v).hdma2 = v := rfl
@[simp] theorem State.setHdma2_hdma3 (v : Byte) : (s.setHdma2 v).hdma3 = s.hdma3 := rfl
@[simp] theorem State.setHdma2_hdma4 (v : Byte) : (s.setHdma2 v).hdma4 = s.hdma4 := rfl
@[simp] theorem State.setHdma2_hdma5 (v : Byte) : (s.setHdma2 v).hdma5 = s.hdma5 := rfl
@[simp] theorem State.setHdma2_transferActive (v : Byte) : (s.setHdma2 v).transferActive = s.transferActive := rfl
@[simp] theorem State.setHdma2_curSrc (v : Byte) : (s.setHdma2 v).curSrc = s.curSrc := rfl
@[simp] theorem State.setHdma2_curDst (v : Byte) : (s.setHdma2 v).curDst = s.curDst := rfl
@[simp] theorem State.setHdma2_key1 (v : Byte) : (s.setHdma2 v).key1 = s.key1 := rfl
@[simp] theorem State.setHdma2_doubleSpeed (v : Byte) : (s.setHdma2 v).doubleSpeed = s.doubleSpeed := rfl
@[simp] theorem State.setHdma2_vram0 (v : Byte) : (s.setHdma2 v).vram0 = s.vram0 := rfl
@[simp] theorem State.setHdma2_vram1 (v : Byte) : (s.setHdma2 v).vram1 = s.vram1 := rfl
@[simp] theorem State.setHdma2_fault (v : Byte) : (s.setHdma2 v).fault = s.fault := rfl
@[simp] theorem State.setHdma2_bootRomMapped (v : Byte) : (s.setHdma2 v).bootRomMapped = s.bootRomMapped := rfl
@[simp] theorem State.setHdma2_pending (v : Byte) : (s.setHdma2 v).pending = s.pending := rfl
@[simp] theorem State.setHdma2_refusals (v : Byte) : (s.setHdma2 v).refusals = s.refusals := rfl
@[simp] theorem State.setHdma2_replies (v : Byte) : (s.setHdma2 v).replies = s.replies := rfl
@[simp] theorem State.setHdma2_draws (v : Byte) : (s.setHdma2 v).draws = s.draws := rfl
@[simp] theorem State.setHdma2_events (v : Byte) : (s.setHdma2 v).events = s.events := rfl
@[simp] theorem State.setHdma2_reads (v : Byte) : (s.setHdma2 v).reads = s.reads := rfl
@[simp] theorem State.setHdma2_result (v : Byte) : (s.setHdma2 v).result = s.result := rfl

/-! ### setHdma3 -/

@[simp] theorem State.setHdma3_params (v : Byte) : (s.setHdma3 v).params = s.params := rfl
@[simp] theorem State.setHdma3_vbk (v : Byte) : (s.setHdma3 v).vbk = s.vbk := rfl
@[simp] theorem State.setHdma3_bcps (v : Byte) : (s.setHdma3 v).bcps = s.bcps := rfl
@[simp] theorem State.setHdma3_ocps (v : Byte) : (s.setHdma3 v).ocps = s.ocps := rfl
@[simp] theorem State.setHdma3_bgpal (v : Byte) : (s.setHdma3 v).bgpal = s.bgpal := rfl
@[simp] theorem State.setHdma3_objpal (v : Byte) : (s.setHdma3 v).objpal = s.objpal := rfl
@[simp] theorem State.setHdma3_hdma1 (v : Byte) : (s.setHdma3 v).hdma1 = s.hdma1 := rfl
@[simp] theorem State.setHdma3_hdma2 (v : Byte) : (s.setHdma3 v).hdma2 = s.hdma2 := rfl
@[simp] theorem State.setHdma3_hdma3 (v : Byte) : (s.setHdma3 v).hdma3 = v := rfl
@[simp] theorem State.setHdma3_hdma4 (v : Byte) : (s.setHdma3 v).hdma4 = s.hdma4 := rfl
@[simp] theorem State.setHdma3_hdma5 (v : Byte) : (s.setHdma3 v).hdma5 = s.hdma5 := rfl
@[simp] theorem State.setHdma3_transferActive (v : Byte) : (s.setHdma3 v).transferActive = s.transferActive := rfl
@[simp] theorem State.setHdma3_curSrc (v : Byte) : (s.setHdma3 v).curSrc = s.curSrc := rfl
@[simp] theorem State.setHdma3_curDst (v : Byte) : (s.setHdma3 v).curDst = s.curDst := rfl
@[simp] theorem State.setHdma3_key1 (v : Byte) : (s.setHdma3 v).key1 = s.key1 := rfl
@[simp] theorem State.setHdma3_doubleSpeed (v : Byte) : (s.setHdma3 v).doubleSpeed = s.doubleSpeed := rfl
@[simp] theorem State.setHdma3_vram0 (v : Byte) : (s.setHdma3 v).vram0 = s.vram0 := rfl
@[simp] theorem State.setHdma3_vram1 (v : Byte) : (s.setHdma3 v).vram1 = s.vram1 := rfl
@[simp] theorem State.setHdma3_fault (v : Byte) : (s.setHdma3 v).fault = s.fault := rfl
@[simp] theorem State.setHdma3_bootRomMapped (v : Byte) : (s.setHdma3 v).bootRomMapped = s.bootRomMapped := rfl
@[simp] theorem State.setHdma3_pending (v : Byte) : (s.setHdma3 v).pending = s.pending := rfl
@[simp] theorem State.setHdma3_refusals (v : Byte) : (s.setHdma3 v).refusals = s.refusals := rfl
@[simp] theorem State.setHdma3_replies (v : Byte) : (s.setHdma3 v).replies = s.replies := rfl
@[simp] theorem State.setHdma3_draws (v : Byte) : (s.setHdma3 v).draws = s.draws := rfl
@[simp] theorem State.setHdma3_events (v : Byte) : (s.setHdma3 v).events = s.events := rfl
@[simp] theorem State.setHdma3_reads (v : Byte) : (s.setHdma3 v).reads = s.reads := rfl
@[simp] theorem State.setHdma3_result (v : Byte) : (s.setHdma3 v).result = s.result := rfl

/-! ### setHdma4 -/

@[simp] theorem State.setHdma4_params (v : Byte) : (s.setHdma4 v).params = s.params := rfl
@[simp] theorem State.setHdma4_vbk (v : Byte) : (s.setHdma4 v).vbk = s.vbk := rfl
@[simp] theorem State.setHdma4_bcps (v : Byte) : (s.setHdma4 v).bcps = s.bcps := rfl
@[simp] theorem State.setHdma4_ocps (v : Byte) : (s.setHdma4 v).ocps = s.ocps := rfl
@[simp] theorem State.setHdma4_bgpal (v : Byte) : (s.setHdma4 v).bgpal = s.bgpal := rfl
@[simp] theorem State.setHdma4_objpal (v : Byte) : (s.setHdma4 v).objpal = s.objpal := rfl
@[simp] theorem State.setHdma4_hdma1 (v : Byte) : (s.setHdma4 v).hdma1 = s.hdma1 := rfl
@[simp] theorem State.setHdma4_hdma2 (v : Byte) : (s.setHdma4 v).hdma2 = s.hdma2 := rfl
@[simp] theorem State.setHdma4_hdma3 (v : Byte) : (s.setHdma4 v).hdma3 = s.hdma3 := rfl
@[simp] theorem State.setHdma4_hdma4 (v : Byte) : (s.setHdma4 v).hdma4 = v := rfl
@[simp] theorem State.setHdma4_hdma5 (v : Byte) : (s.setHdma4 v).hdma5 = s.hdma5 := rfl
@[simp] theorem State.setHdma4_transferActive (v : Byte) : (s.setHdma4 v).transferActive = s.transferActive := rfl
@[simp] theorem State.setHdma4_curSrc (v : Byte) : (s.setHdma4 v).curSrc = s.curSrc := rfl
@[simp] theorem State.setHdma4_curDst (v : Byte) : (s.setHdma4 v).curDst = s.curDst := rfl
@[simp] theorem State.setHdma4_key1 (v : Byte) : (s.setHdma4 v).key1 = s.key1 := rfl
@[simp] theorem State.setHdma4_doubleSpeed (v : Byte) : (s.setHdma4 v).doubleSpeed = s.doubleSpeed := rfl
@[simp] theorem State.setHdma4_vram0 (v : Byte) : (s.setHdma4 v).vram0 = s.vram0 := rfl
@[simp] theorem State.setHdma4_vram1 (v : Byte) : (s.setHdma4 v).vram1 = s.vram1 := rfl
@[simp] theorem State.setHdma4_fault (v : Byte) : (s.setHdma4 v).fault = s.fault := rfl
@[simp] theorem State.setHdma4_bootRomMapped (v : Byte) : (s.setHdma4 v).bootRomMapped = s.bootRomMapped := rfl
@[simp] theorem State.setHdma4_pending (v : Byte) : (s.setHdma4 v).pending = s.pending := rfl
@[simp] theorem State.setHdma4_refusals (v : Byte) : (s.setHdma4 v).refusals = s.refusals := rfl
@[simp] theorem State.setHdma4_replies (v : Byte) : (s.setHdma4 v).replies = s.replies := rfl
@[simp] theorem State.setHdma4_draws (v : Byte) : (s.setHdma4 v).draws = s.draws := rfl
@[simp] theorem State.setHdma4_events (v : Byte) : (s.setHdma4 v).events = s.events := rfl
@[simp] theorem State.setHdma4_reads (v : Byte) : (s.setHdma4 v).reads = s.reads := rfl
@[simp] theorem State.setHdma4_result (v : Byte) : (s.setHdma4 v).result = s.result := rfl

/-! ### setHdma5 -/

@[simp] theorem State.setHdma5_params (v : Byte) : (s.setHdma5 v).params = s.params := rfl
@[simp] theorem State.setHdma5_vbk (v : Byte) : (s.setHdma5 v).vbk = s.vbk := rfl
@[simp] theorem State.setHdma5_bcps (v : Byte) : (s.setHdma5 v).bcps = s.bcps := rfl
@[simp] theorem State.setHdma5_ocps (v : Byte) : (s.setHdma5 v).ocps = s.ocps := rfl
@[simp] theorem State.setHdma5_bgpal (v : Byte) : (s.setHdma5 v).bgpal = s.bgpal := rfl
@[simp] theorem State.setHdma5_objpal (v : Byte) : (s.setHdma5 v).objpal = s.objpal := rfl
@[simp] theorem State.setHdma5_hdma1 (v : Byte) : (s.setHdma5 v).hdma1 = s.hdma1 := rfl
@[simp] theorem State.setHdma5_hdma2 (v : Byte) : (s.setHdma5 v).hdma2 = s.hdma2 := rfl
@[simp] theorem State.setHdma5_hdma3 (v : Byte) : (s.setHdma5 v).hdma3 = s.hdma3 := rfl
@[simp] theorem State.setHdma5_hdma4 (v : Byte) : (s.setHdma5 v).hdma4 = s.hdma4 := rfl
@[simp] theorem State.setHdma5_hdma5 (v : Byte) : (s.setHdma5 v).hdma5 = v := rfl
@[simp] theorem State.setHdma5_transferActive (v : Byte) : (s.setHdma5 v).transferActive = s.transferActive := rfl
@[simp] theorem State.setHdma5_curSrc (v : Byte) : (s.setHdma5 v).curSrc = s.curSrc := rfl
@[simp] theorem State.setHdma5_curDst (v : Byte) : (s.setHdma5 v).curDst = s.curDst := rfl
@[simp] theorem State.setHdma5_key1 (v : Byte) : (s.setHdma5 v).key1 = s.key1 := rfl
@[simp] theorem State.setHdma5_doubleSpeed (v : Byte) : (s.setHdma5 v).doubleSpeed = s.doubleSpeed := rfl
@[simp] theorem State.setHdma5_vram0 (v : Byte) : (s.setHdma5 v).vram0 = s.vram0 := rfl
@[simp] theorem State.setHdma5_vram1 (v : Byte) : (s.setHdma5 v).vram1 = s.vram1 := rfl
@[simp] theorem State.setHdma5_fault (v : Byte) : (s.setHdma5 v).fault = s.fault := rfl
@[simp] theorem State.setHdma5_bootRomMapped (v : Byte) : (s.setHdma5 v).bootRomMapped = s.bootRomMapped := rfl
@[simp] theorem State.setHdma5_pending (v : Byte) : (s.setHdma5 v).pending = s.pending := rfl
@[simp] theorem State.setHdma5_refusals (v : Byte) : (s.setHdma5 v).refusals = s.refusals := rfl
@[simp] theorem State.setHdma5_replies (v : Byte) : (s.setHdma5 v).replies = s.replies := rfl
@[simp] theorem State.setHdma5_draws (v : Byte) : (s.setHdma5 v).draws = s.draws := rfl
@[simp] theorem State.setHdma5_events (v : Byte) : (s.setHdma5 v).events = s.events := rfl
@[simp] theorem State.setHdma5_reads (v : Byte) : (s.setHdma5 v).reads = s.reads := rfl
@[simp] theorem State.setHdma5_result (v : Byte) : (s.setHdma5 v).result = s.result := rfl

/-! ### setActive -/

@[simp] theorem State.setActive_params (b : Bool) : (s.setActive b).params = s.params := rfl
@[simp] theorem State.setActive_vbk (b : Bool) : (s.setActive b).vbk = s.vbk := rfl
@[simp] theorem State.setActive_bcps (b : Bool) : (s.setActive b).bcps = s.bcps := rfl
@[simp] theorem State.setActive_ocps (b : Bool) : (s.setActive b).ocps = s.ocps := rfl
@[simp] theorem State.setActive_bgpal (b : Bool) : (s.setActive b).bgpal = s.bgpal := rfl
@[simp] theorem State.setActive_objpal (b : Bool) : (s.setActive b).objpal = s.objpal := rfl
@[simp] theorem State.setActive_hdma1 (b : Bool) : (s.setActive b).hdma1 = s.hdma1 := rfl
@[simp] theorem State.setActive_hdma2 (b : Bool) : (s.setActive b).hdma2 = s.hdma2 := rfl
@[simp] theorem State.setActive_hdma3 (b : Bool) : (s.setActive b).hdma3 = s.hdma3 := rfl
@[simp] theorem State.setActive_hdma4 (b : Bool) : (s.setActive b).hdma4 = s.hdma4 := rfl
@[simp] theorem State.setActive_hdma5 (b : Bool) : (s.setActive b).hdma5 = s.hdma5 := rfl
@[simp] theorem State.setActive_transferActive (b : Bool) : (s.setActive b).transferActive = b := rfl
@[simp] theorem State.setActive_curSrc (b : Bool) : (s.setActive b).curSrc = s.curSrc := rfl
@[simp] theorem State.setActive_curDst (b : Bool) : (s.setActive b).curDst = s.curDst := rfl
@[simp] theorem State.setActive_key1 (b : Bool) : (s.setActive b).key1 = s.key1 := rfl
@[simp] theorem State.setActive_doubleSpeed (b : Bool) : (s.setActive b).doubleSpeed = s.doubleSpeed := rfl
@[simp] theorem State.setActive_vram0 (b : Bool) : (s.setActive b).vram0 = s.vram0 := rfl
@[simp] theorem State.setActive_vram1 (b : Bool) : (s.setActive b).vram1 = s.vram1 := rfl
@[simp] theorem State.setActive_fault (b : Bool) : (s.setActive b).fault = s.fault := rfl
@[simp] theorem State.setActive_bootRomMapped (b : Bool) : (s.setActive b).bootRomMapped = s.bootRomMapped := rfl
@[simp] theorem State.setActive_pending (b : Bool) : (s.setActive b).pending = s.pending := rfl
@[simp] theorem State.setActive_refusals (b : Bool) : (s.setActive b).refusals = s.refusals := rfl
@[simp] theorem State.setActive_replies (b : Bool) : (s.setActive b).replies = s.replies := rfl
@[simp] theorem State.setActive_draws (b : Bool) : (s.setActive b).draws = s.draws := rfl
@[simp] theorem State.setActive_events (b : Bool) : (s.setActive b).events = s.events := rfl
@[simp] theorem State.setActive_reads (b : Bool) : (s.setActive b).reads = s.reads := rfl
@[simp] theorem State.setActive_result (b : Bool) : (s.setActive b).result = s.result := rfl

/-! ### setCursors -/

@[simp] theorem State.setCursors_params (x y : Addr) : (s.setCursors x y).params = s.params := rfl
@[simp] theorem State.setCursors_vbk (x y : Addr) : (s.setCursors x y).vbk = s.vbk := rfl
@[simp] theorem State.setCursors_bcps (x y : Addr) : (s.setCursors x y).bcps = s.bcps := rfl
@[simp] theorem State.setCursors_ocps (x y : Addr) : (s.setCursors x y).ocps = s.ocps := rfl
@[simp] theorem State.setCursors_bgpal (x y : Addr) : (s.setCursors x y).bgpal = s.bgpal := rfl
@[simp] theorem State.setCursors_objpal (x y : Addr) : (s.setCursors x y).objpal = s.objpal := rfl
@[simp] theorem State.setCursors_hdma1 (x y : Addr) : (s.setCursors x y).hdma1 = s.hdma1 := rfl
@[simp] theorem State.setCursors_hdma2 (x y : Addr) : (s.setCursors x y).hdma2 = s.hdma2 := rfl
@[simp] theorem State.setCursors_hdma3 (x y : Addr) : (s.setCursors x y).hdma3 = s.hdma3 := rfl
@[simp] theorem State.setCursors_hdma4 (x y : Addr) : (s.setCursors x y).hdma4 = s.hdma4 := rfl
@[simp] theorem State.setCursors_hdma5 (x y : Addr) : (s.setCursors x y).hdma5 = s.hdma5 := rfl
@[simp] theorem State.setCursors_transferActive (x y : Addr) : (s.setCursors x y).transferActive = s.transferActive := rfl
@[simp] theorem State.setCursors_curSrc (x y : Addr) : (s.setCursors x y).curSrc = x := rfl
@[simp] theorem State.setCursors_curDst (x y : Addr) : (s.setCursors x y).curDst = y := rfl
@[simp] theorem State.setCursors_key1 (x y : Addr) : (s.setCursors x y).key1 = s.key1 := rfl
@[simp] theorem State.setCursors_doubleSpeed (x y : Addr) : (s.setCursors x y).doubleSpeed = s.doubleSpeed := rfl
@[simp] theorem State.setCursors_vram0 (x y : Addr) : (s.setCursors x y).vram0 = s.vram0 := rfl
@[simp] theorem State.setCursors_vram1 (x y : Addr) : (s.setCursors x y).vram1 = s.vram1 := rfl
@[simp] theorem State.setCursors_fault (x y : Addr) : (s.setCursors x y).fault = s.fault := rfl
@[simp] theorem State.setCursors_bootRomMapped (x y : Addr) : (s.setCursors x y).bootRomMapped = s.bootRomMapped := rfl
@[simp] theorem State.setCursors_pending (x y : Addr) : (s.setCursors x y).pending = s.pending := rfl
@[simp] theorem State.setCursors_refusals (x y : Addr) : (s.setCursors x y).refusals = s.refusals := rfl
@[simp] theorem State.setCursors_replies (x y : Addr) : (s.setCursors x y).replies = s.replies := rfl
@[simp] theorem State.setCursors_draws (x y : Addr) : (s.setCursors x y).draws = s.draws := rfl
@[simp] theorem State.setCursors_events (x y : Addr) : (s.setCursors x y).events = s.events := rfl
@[simp] theorem State.setCursors_reads (x y : Addr) : (s.setCursors x y).reads = s.reads := rfl
@[simp] theorem State.setCursors_result (x y : Addr) : (s.setCursors x y).result = s.result := rfl

/-! ### setKey1 -/

@[simp] theorem State.setKey1_params (v : Byte) : (s.setKey1 v).params = s.params := rfl
@[simp] theorem State.setKey1_vbk (v : Byte) : (s.setKey1 v).vbk = s.vbk := rfl
@[simp] theorem State.setKey1_bcps (v : Byte) : (s.setKey1 v).bcps = s.bcps := rfl
@[simp] theorem State.setKey1_ocps (v : Byte) : (s.setKey1 v).ocps = s.ocps := rfl
@[simp] theorem State.setKey1_bgpal (v : Byte) : (s.setKey1 v).bgpal = s.bgpal := rfl
@[simp] theorem State.setKey1_objpal (v : Byte) : (s.setKey1 v).objpal = s.objpal := rfl
@[simp] theorem State.setKey1_hdma1 (v : Byte) : (s.setKey1 v).hdma1 = s.hdma1 := rfl
@[simp] theorem State.setKey1_hdma2 (v : Byte) : (s.setKey1 v).hdma2 = s.hdma2 := rfl
@[simp] theorem State.setKey1_hdma3 (v : Byte) : (s.setKey1 v).hdma3 = s.hdma3 := rfl
@[simp] theorem State.setKey1_hdma4 (v : Byte) : (s.setKey1 v).hdma4 = s.hdma4 := rfl
@[simp] theorem State.setKey1_hdma5 (v : Byte) : (s.setKey1 v).hdma5 = s.hdma5 := rfl
@[simp] theorem State.setKey1_transferActive (v : Byte) : (s.setKey1 v).transferActive = s.transferActive := rfl
@[simp] theorem State.setKey1_curSrc (v : Byte) : (s.setKey1 v).curSrc = s.curSrc := rfl
@[simp] theorem State.setKey1_curDst (v : Byte) : (s.setKey1 v).curDst = s.curDst := rfl
@[simp] theorem State.setKey1_key1 (v : Byte) : (s.setKey1 v).key1 = v := rfl
@[simp] theorem State.setKey1_doubleSpeed (v : Byte) : (s.setKey1 v).doubleSpeed = s.doubleSpeed := rfl
@[simp] theorem State.setKey1_vram0 (v : Byte) : (s.setKey1 v).vram0 = s.vram0 := rfl
@[simp] theorem State.setKey1_vram1 (v : Byte) : (s.setKey1 v).vram1 = s.vram1 := rfl
@[simp] theorem State.setKey1_fault (v : Byte) : (s.setKey1 v).fault = s.fault := rfl
@[simp] theorem State.setKey1_bootRomMapped (v : Byte) : (s.setKey1 v).bootRomMapped = s.bootRomMapped := rfl
@[simp] theorem State.setKey1_pending (v : Byte) : (s.setKey1 v).pending = s.pending := rfl
@[simp] theorem State.setKey1_refusals (v : Byte) : (s.setKey1 v).refusals = s.refusals := rfl
@[simp] theorem State.setKey1_replies (v : Byte) : (s.setKey1 v).replies = s.replies := rfl
@[simp] theorem State.setKey1_draws (v : Byte) : (s.setKey1 v).draws = s.draws := rfl
@[simp] theorem State.setKey1_events (v : Byte) : (s.setKey1 v).events = s.events := rfl
@[simp] theorem State.setKey1_reads (v : Byte) : (s.setKey1 v).reads = s.reads := rfl
@[simp] theorem State.setKey1_result (v : Byte) : (s.setKey1 v).result = s.result := rfl

/-! ### setDoubleSpeed -/

@[simp] theorem State.setDoubleSpeed_params (b : Bool) : (s.setDoubleSpeed b).params = s.params := rfl
@[simp] theorem State.setDoubleSpeed_vbk (b : Bool) : (s.setDoubleSpeed b).vbk = s.vbk := rfl
@[simp] theorem State.setDoubleSpeed_bcps (b : Bool) : (s.setDoubleSpeed b).bcps = s.bcps := rfl
@[simp] theorem State.setDoubleSpeed_ocps (b : Bool) : (s.setDoubleSpeed b).ocps = s.ocps := rfl
@[simp] theorem State.setDoubleSpeed_bgpal (b : Bool) : (s.setDoubleSpeed b).bgpal = s.bgpal := rfl
@[simp] theorem State.setDoubleSpeed_objpal (b : Bool) : (s.setDoubleSpeed b).objpal = s.objpal := rfl
@[simp] theorem State.setDoubleSpeed_hdma1 (b : Bool) : (s.setDoubleSpeed b).hdma1 = s.hdma1 := rfl
@[simp] theorem State.setDoubleSpeed_hdma2 (b : Bool) : (s.setDoubleSpeed b).hdma2 = s.hdma2 := rfl
@[simp] theorem State.setDoubleSpeed_hdma3 (b : Bool) : (s.setDoubleSpeed b).hdma3 = s.hdma3 := rfl
@[simp] theorem State.setDoubleSpeed_hdma4 (b : Bool) : (s.setDoubleSpeed b).hdma4 = s.hdma4 := rfl
@[simp] theorem State.setDoubleSpeed_hdma5 (b : Bool) : (s.setDoubleSpeed b).hdma5 = s.hdma5 := rfl
@[simp] theorem State.setDoubleSpeed_transferActive (b : Bool) : (s.setDoubleSpeed b).transferActive = s.transferActive := rfl
@[simp] theorem State.setDoubleSpeed_curSrc (b : Bool) : (s.setDoubleSpeed b).curSrc = s.curSrc := rfl
@[simp] theorem State.setDoubleSpeed_curDst (b : Bool) : (s.setDoubleSpeed b).curDst = s.curDst := rfl
@[simp] theorem State.setDoubleSpeed_key1 (b : Bool) : (s.setDoubleSpeed b).key1 = s.key1 := rfl
@[simp] theorem State.setDoubleSpeed_doubleSpeed (b : Bool) : (s.setDoubleSpeed b).doubleSpeed = b := rfl
@[simp] theorem State.setDoubleSpeed_vram0 (b : Bool) : (s.setDoubleSpeed b).vram0 = s.vram0 := rfl
@[simp] theorem State.setDoubleSpeed_vram1 (b : Bool) : (s.setDoubleSpeed b).vram1 = s.vram1 := rfl
@[simp] theorem State.setDoubleSpeed_fault (b : Bool) : (s.setDoubleSpeed b).fault = s.fault := rfl
@[simp] theorem State.setDoubleSpeed_bootRomMapped (b : Bool) : (s.setDoubleSpeed b).bootRomMapped = s.bootRomMapped := rfl
@[simp] theorem State.setDoubleSpeed_pending (b : Bool) : (s.setDoubleSpeed b).pending = s.pending := rfl
@[simp] theorem State.setDoubleSpeed_refusals (b : Bool) : (s.setDoubleSpeed b).refusals = s.refusals := rfl
@[simp] theorem State.setDoubleSpeed_replies (b : Bool) : (s.setDoubleSpeed b).replies = s.replies := rfl
@[simp] theorem State.setDoubleSpeed_draws (b : Bool) : (s.setDoubleSpeed b).draws = s.draws := rfl
@[simp] theorem State.setDoubleSpeed_events (b : Bool) : (s.setDoubleSpeed b).events = s.events := rfl
@[simp] theorem State.setDoubleSpeed_reads (b : Bool) : (s.setDoubleSpeed b).reads = s.reads := rfl
@[simp] theorem State.setDoubleSpeed_result (b : Bool) : (s.setDoubleSpeed b).result = s.result := rfl

/-! ### setFault -/

@[simp] theorem State.setFault_params (f : Option BlockFault) : (s.setFault f).params = s.params := rfl
@[simp] theorem State.setFault_vbk (f : Option BlockFault) : (s.setFault f).vbk = s.vbk := rfl
@[simp] theorem State.setFault_bcps (f : Option BlockFault) : (s.setFault f).bcps = s.bcps := rfl
@[simp] theorem State.setFault_ocps (f : Option BlockFault) : (s.setFault f).ocps = s.ocps := rfl
@[simp] theorem State.setFault_bgpal (f : Option BlockFault) : (s.setFault f).bgpal = s.bgpal := rfl
@[simp] theorem State.setFault_objpal (f : Option BlockFault) : (s.setFault f).objpal = s.objpal := rfl
@[simp] theorem State.setFault_hdma1 (f : Option BlockFault) : (s.setFault f).hdma1 = s.hdma1 := rfl
@[simp] theorem State.setFault_hdma2 (f : Option BlockFault) : (s.setFault f).hdma2 = s.hdma2 := rfl
@[simp] theorem State.setFault_hdma3 (f : Option BlockFault) : (s.setFault f).hdma3 = s.hdma3 := rfl
@[simp] theorem State.setFault_hdma4 (f : Option BlockFault) : (s.setFault f).hdma4 = s.hdma4 := rfl
@[simp] theorem State.setFault_hdma5 (f : Option BlockFault) : (s.setFault f).hdma5 = s.hdma5 := rfl
@[simp] theorem State.setFault_transferActive (f : Option BlockFault) : (s.setFault f).transferActive = s.transferActive := rfl
@[simp] theorem State.setFault_curSrc (f : Option BlockFault) : (s.setFault f).curSrc = s.curSrc := rfl
@[simp] theorem State.setFault_curDst (f : Option BlockFault) : (s.setFault f).curDst = s.curDst := rfl
@[simp] theorem State.setFault_key1 (f : Option BlockFault) : (s.setFault f).key1 = s.key1 := rfl
@[simp] theorem State.setFault_doubleSpeed (f : Option BlockFault) : (s.setFault f).doubleSpeed = s.doubleSpeed := rfl
@[simp] theorem State.setFault_vram0 (f : Option BlockFault) : (s.setFault f).vram0 = s.vram0 := rfl
@[simp] theorem State.setFault_vram1 (f : Option BlockFault) : (s.setFault f).vram1 = s.vram1 := rfl
@[simp] theorem State.setFault_fault (f : Option BlockFault) : (s.setFault f).fault = f := rfl
@[simp] theorem State.setFault_bootRomMapped (f : Option BlockFault) : (s.setFault f).bootRomMapped = s.bootRomMapped := rfl
@[simp] theorem State.setFault_pending (f : Option BlockFault) : (s.setFault f).pending = s.pending := rfl
@[simp] theorem State.setFault_refusals (f : Option BlockFault) : (s.setFault f).refusals = s.refusals := rfl
@[simp] theorem State.setFault_replies (f : Option BlockFault) : (s.setFault f).replies = s.replies := rfl
@[simp] theorem State.setFault_draws (f : Option BlockFault) : (s.setFault f).draws = s.draws := rfl
@[simp] theorem State.setFault_events (f : Option BlockFault) : (s.setFault f).events = s.events := rfl
@[simp] theorem State.setFault_reads (f : Option BlockFault) : (s.setFault f).reads = s.reads := rfl
@[simp] theorem State.setFault_result (f : Option BlockFault) : (s.setFault f).result = s.result := rfl

/-! ### setBootRomMapped -/

@[simp] theorem State.setBootRomMapped_params (b : Bool) : (s.setBootRomMapped b).params = s.params := rfl
@[simp] theorem State.setBootRomMapped_vbk (b : Bool) : (s.setBootRomMapped b).vbk = s.vbk := rfl
@[simp] theorem State.setBootRomMapped_bcps (b : Bool) : (s.setBootRomMapped b).bcps = s.bcps := rfl
@[simp] theorem State.setBootRomMapped_ocps (b : Bool) : (s.setBootRomMapped b).ocps = s.ocps := rfl
@[simp] theorem State.setBootRomMapped_bgpal (b : Bool) : (s.setBootRomMapped b).bgpal = s.bgpal := rfl
@[simp] theorem State.setBootRomMapped_objpal (b : Bool) : (s.setBootRomMapped b).objpal = s.objpal := rfl
@[simp] theorem State.setBootRomMapped_hdma1 (b : Bool) : (s.setBootRomMapped b).hdma1 = s.hdma1 := rfl
@[simp] theorem State.setBootRomMapped_hdma2 (b : Bool) : (s.setBootRomMapped b).hdma2 = s.hdma2 := rfl
@[simp] theorem State.setBootRomMapped_hdma3 (b : Bool) : (s.setBootRomMapped b).hdma3 = s.hdma3 := rfl
@[simp] theorem State.setBootRomMapped_hdma4 (b : Bool) : (s.setBootRomMapped b).hdma4 = s.hdma4 := rfl
@[simp] theorem State.setBootRomMapped_hdma5 (b : Bool) : (s.setBootRomMapped b).hdma5 = s.hdma5 := rfl
@[simp] theorem State.setBootRomMapped_transferActive (b : Bool) : (s.setBootRomMapped b).transferActive = s.transferActive := rfl
@[simp] theorem State.setBootRomMapped_curSrc (b : Bool) : (s.setBootRomMapped b).curSrc = s.curSrc := rfl
@[simp] theorem State.setBootRomMapped_curDst (b : Bool) : (s.setBootRomMapped b).curDst = s.curDst := rfl
@[simp] theorem State.setBootRomMapped_key1 (b : Bool) : (s.setBootRomMapped b).key1 = s.key1 := rfl
@[simp] theorem State.setBootRomMapped_doubleSpeed (b : Bool) : (s.setBootRomMapped b).doubleSpeed = s.doubleSpeed := rfl
@[simp] theorem State.setBootRomMapped_vram0 (b : Bool) : (s.setBootRomMapped b).vram0 = s.vram0 := rfl
@[simp] theorem State.setBootRomMapped_vram1 (b : Bool) : (s.setBootRomMapped b).vram1 = s.vram1 := rfl
@[simp] theorem State.setBootRomMapped_fault (b : Bool) : (s.setBootRomMapped b).fault = s.fault := rfl
@[simp] theorem State.setBootRomMapped_bootRomMapped (b : Bool) : (s.setBootRomMapped b).bootRomMapped = b := rfl
@[simp] theorem State.setBootRomMapped_pending (b : Bool) : (s.setBootRomMapped b).pending = s.pending := rfl
@[simp] theorem State.setBootRomMapped_refusals (b : Bool) : (s.setBootRomMapped b).refusals = s.refusals := rfl
@[simp] theorem State.setBootRomMapped_replies (b : Bool) : (s.setBootRomMapped b).replies = s.replies := rfl
@[simp] theorem State.setBootRomMapped_draws (b : Bool) : (s.setBootRomMapped b).draws = s.draws := rfl
@[simp] theorem State.setBootRomMapped_events (b : Bool) : (s.setBootRomMapped b).events = s.events := rfl
@[simp] theorem State.setBootRomMapped_reads (b : Bool) : (s.setBootRomMapped b).reads = s.reads := rfl
@[simp] theorem State.setBootRomMapped_result (b : Bool) : (s.setBootRomMapped b).result = s.result := rfl

/-! ### setResult -/

@[simp] theorem State.setResult_params (r : Option Result) : (s.setResult r).params = s.params := rfl
@[simp] theorem State.setResult_vbk (r : Option Result) : (s.setResult r).vbk = s.vbk := rfl
@[simp] theorem State.setResult_bcps (r : Option Result) : (s.setResult r).bcps = s.bcps := rfl
@[simp] theorem State.setResult_ocps (r : Option Result) : (s.setResult r).ocps = s.ocps := rfl
@[simp] theorem State.setResult_bgpal (r : Option Result) : (s.setResult r).bgpal = s.bgpal := rfl
@[simp] theorem State.setResult_objpal (r : Option Result) : (s.setResult r).objpal = s.objpal := rfl
@[simp] theorem State.setResult_hdma1 (r : Option Result) : (s.setResult r).hdma1 = s.hdma1 := rfl
@[simp] theorem State.setResult_hdma2 (r : Option Result) : (s.setResult r).hdma2 = s.hdma2 := rfl
@[simp] theorem State.setResult_hdma3 (r : Option Result) : (s.setResult r).hdma3 = s.hdma3 := rfl
@[simp] theorem State.setResult_hdma4 (r : Option Result) : (s.setResult r).hdma4 = s.hdma4 := rfl
@[simp] theorem State.setResult_hdma5 (r : Option Result) : (s.setResult r).hdma5 = s.hdma5 := rfl
@[simp] theorem State.setResult_transferActive (r : Option Result) : (s.setResult r).transferActive = s.transferActive := rfl
@[simp] theorem State.setResult_curSrc (r : Option Result) : (s.setResult r).curSrc = s.curSrc := rfl
@[simp] theorem State.setResult_curDst (r : Option Result) : (s.setResult r).curDst = s.curDst := rfl
@[simp] theorem State.setResult_key1 (r : Option Result) : (s.setResult r).key1 = s.key1 := rfl
@[simp] theorem State.setResult_doubleSpeed (r : Option Result) : (s.setResult r).doubleSpeed = s.doubleSpeed := rfl
@[simp] theorem State.setResult_vram0 (r : Option Result) : (s.setResult r).vram0 = s.vram0 := rfl
@[simp] theorem State.setResult_vram1 (r : Option Result) : (s.setResult r).vram1 = s.vram1 := rfl
@[simp] theorem State.setResult_fault (r : Option Result) : (s.setResult r).fault = s.fault := rfl
@[simp] theorem State.setResult_bootRomMapped (r : Option Result) : (s.setResult r).bootRomMapped = s.bootRomMapped := rfl
@[simp] theorem State.setResult_pending (r : Option Result) : (s.setResult r).pending = s.pending := rfl
@[simp] theorem State.setResult_refusals (r : Option Result) : (s.setResult r).refusals = s.refusals := rfl
@[simp] theorem State.setResult_replies (r : Option Result) : (s.setResult r).replies = s.replies := rfl
@[simp] theorem State.setResult_draws (r : Option Result) : (s.setResult r).draws = s.draws := rfl
@[simp] theorem State.setResult_events (r : Option Result) : (s.setResult r).events = s.events := rfl
@[simp] theorem State.setResult_reads (r : Option Result) : (s.setResult r).reads = s.reads := rfl
@[simp] theorem State.setResult_result (r : Option Result) : (s.setResult r).result = r := rfl

/-! ### setPending -/

@[simp] theorem State.setPending_params (ws : List OpWord) : (s.setPending ws).params = s.params := rfl
@[simp] theorem State.setPending_vbk (ws : List OpWord) : (s.setPending ws).vbk = s.vbk := rfl
@[simp] theorem State.setPending_bcps (ws : List OpWord) : (s.setPending ws).bcps = s.bcps := rfl
@[simp] theorem State.setPending_ocps (ws : List OpWord) : (s.setPending ws).ocps = s.ocps := rfl
@[simp] theorem State.setPending_bgpal (ws : List OpWord) : (s.setPending ws).bgpal = s.bgpal := rfl
@[simp] theorem State.setPending_objpal (ws : List OpWord) : (s.setPending ws).objpal = s.objpal := rfl
@[simp] theorem State.setPending_hdma1 (ws : List OpWord) : (s.setPending ws).hdma1 = s.hdma1 := rfl
@[simp] theorem State.setPending_hdma2 (ws : List OpWord) : (s.setPending ws).hdma2 = s.hdma2 := rfl
@[simp] theorem State.setPending_hdma3 (ws : List OpWord) : (s.setPending ws).hdma3 = s.hdma3 := rfl
@[simp] theorem State.setPending_hdma4 (ws : List OpWord) : (s.setPending ws).hdma4 = s.hdma4 := rfl
@[simp] theorem State.setPending_hdma5 (ws : List OpWord) : (s.setPending ws).hdma5 = s.hdma5 := rfl
@[simp] theorem State.setPending_transferActive (ws : List OpWord) : (s.setPending ws).transferActive = s.transferActive := rfl
@[simp] theorem State.setPending_curSrc (ws : List OpWord) : (s.setPending ws).curSrc = s.curSrc := rfl
@[simp] theorem State.setPending_curDst (ws : List OpWord) : (s.setPending ws).curDst = s.curDst := rfl
@[simp] theorem State.setPending_key1 (ws : List OpWord) : (s.setPending ws).key1 = s.key1 := rfl
@[simp] theorem State.setPending_doubleSpeed (ws : List OpWord) : (s.setPending ws).doubleSpeed = s.doubleSpeed := rfl
@[simp] theorem State.setPending_vram0 (ws : List OpWord) : (s.setPending ws).vram0 = s.vram0 := rfl
@[simp] theorem State.setPending_vram1 (ws : List OpWord) : (s.setPending ws).vram1 = s.vram1 := rfl
@[simp] theorem State.setPending_fault (ws : List OpWord) : (s.setPending ws).fault = s.fault := rfl
@[simp] theorem State.setPending_bootRomMapped (ws : List OpWord) : (s.setPending ws).bootRomMapped = s.bootRomMapped := rfl
@[simp] theorem State.setPending_pending (ws : List OpWord) : (s.setPending ws).pending = ws := rfl
@[simp] theorem State.setPending_refusals (ws : List OpWord) : (s.setPending ws).refusals = s.refusals := rfl
@[simp] theorem State.setPending_replies (ws : List OpWord) : (s.setPending ws).replies = s.replies := rfl
@[simp] theorem State.setPending_draws (ws : List OpWord) : (s.setPending ws).draws = s.draws := rfl
@[simp] theorem State.setPending_events (ws : List OpWord) : (s.setPending ws).events = s.events := rfl
@[simp] theorem State.setPending_reads (ws : List OpWord) : (s.setPending ws).reads = s.reads := rfl
@[simp] theorem State.setPending_result (ws : List OpWord) : (s.setPending ws).result = s.result := rfl

/-! ### emit -/

@[simp] theorem State.emit_params (e : Event) : (s.emit e).params = s.params := rfl
@[simp] theorem State.emit_vbk (e : Event) : (s.emit e).vbk = s.vbk := rfl
@[simp] theorem State.emit_bcps (e : Event) : (s.emit e).bcps = s.bcps := rfl
@[simp] theorem State.emit_ocps (e : Event) : (s.emit e).ocps = s.ocps := rfl
@[simp] theorem State.emit_bgpal (e : Event) : (s.emit e).bgpal = s.bgpal := rfl
@[simp] theorem State.emit_objpal (e : Event) : (s.emit e).objpal = s.objpal := rfl
@[simp] theorem State.emit_hdma1 (e : Event) : (s.emit e).hdma1 = s.hdma1 := rfl
@[simp] theorem State.emit_hdma2 (e : Event) : (s.emit e).hdma2 = s.hdma2 := rfl
@[simp] theorem State.emit_hdma3 (e : Event) : (s.emit e).hdma3 = s.hdma3 := rfl
@[simp] theorem State.emit_hdma4 (e : Event) : (s.emit e).hdma4 = s.hdma4 := rfl
@[simp] theorem State.emit_hdma5 (e : Event) : (s.emit e).hdma5 = s.hdma5 := rfl
@[simp] theorem State.emit_transferActive (e : Event) : (s.emit e).transferActive = s.transferActive := rfl
@[simp] theorem State.emit_curSrc (e : Event) : (s.emit e).curSrc = s.curSrc := rfl
@[simp] theorem State.emit_curDst (e : Event) : (s.emit e).curDst = s.curDst := rfl
@[simp] theorem State.emit_key1 (e : Event) : (s.emit e).key1 = s.key1 := rfl
@[simp] theorem State.emit_doubleSpeed (e : Event) : (s.emit e).doubleSpeed = s.doubleSpeed := rfl
@[simp] theorem State.emit_vram0 (e : Event) : (s.emit e).vram0 = s.vram0 := rfl
@[simp] theorem State.emit_vram1 (e : Event) : (s.emit e).vram1 = s.vram1 := rfl
@[simp] theorem State.emit_fault (e : Event) : (s.emit e).fault = s.fault := rfl
@[simp] theorem State.emit_bootRomMapped (e : Event) : (s.emit e).bootRomMapped = s.bootRomMapped := rfl
@[simp] theorem State.emit_pending (e : Event) : (s.emit e).pending = s.pending := rfl
@[simp] theorem State.emit_refusals (e : Event) : (s.emit e).refusals = s.refusals := rfl
@[simp] theorem State.emit_replies (e : Event) : (s.emit e).replies = s.replies := rfl
@[simp] theorem State.emit_draws (e : Event) : (s.emit e).draws = s.draws := rfl
@[simp] theorem State.emit_events (e : Event) : (s.emit e).events = e :: s.events := rfl
@[simp] theorem State.emit_reads (e : Event) : (s.emit e).reads = s.reads := rfl
@[simp] theorem State.emit_result (e : Event) : (s.emit e).result = s.result := rfl

/-! ### noteRead -/

@[simp] theorem State.noteRead_params (p : Port) (a : Addr) : (s.noteRead p a).params = s.params := rfl
@[simp] theorem State.noteRead_vbk (p : Port) (a : Addr) : (s.noteRead p a).vbk = s.vbk := rfl
@[simp] theorem State.noteRead_bcps (p : Port) (a : Addr) : (s.noteRead p a).bcps = s.bcps := rfl
@[simp] theorem State.noteRead_ocps (p : Port) (a : Addr) : (s.noteRead p a).ocps = s.ocps := rfl
@[simp] theorem State.noteRead_bgpal (p : Port) (a : Addr) : (s.noteRead p a).bgpal = s.bgpal := rfl
@[simp] theorem State.noteRead_objpal (p : Port) (a : Addr) : (s.noteRead p a).objpal = s.objpal := rfl
@[simp] theorem State.noteRead_hdma1 (p : Port) (a : Addr) : (s.noteRead p a).hdma1 = s.hdma1 := rfl
@[simp] theorem State.noteRead_hdma2 (p : Port) (a : Addr) : (s.noteRead p a).hdma2 = s.hdma2 := rfl
@[simp] theorem State.noteRead_hdma3 (p : Port) (a : Addr) : (s.noteRead p a).hdma3 = s.hdma3 := rfl
@[simp] theorem State.noteRead_hdma4 (p : Port) (a : Addr) : (s.noteRead p a).hdma4 = s.hdma4 := rfl
@[simp] theorem State.noteRead_hdma5 (p : Port) (a : Addr) : (s.noteRead p a).hdma5 = s.hdma5 := rfl
@[simp] theorem State.noteRead_transferActive (p : Port) (a : Addr) : (s.noteRead p a).transferActive = s.transferActive := rfl
@[simp] theorem State.noteRead_curSrc (p : Port) (a : Addr) : (s.noteRead p a).curSrc = s.curSrc := rfl
@[simp] theorem State.noteRead_curDst (p : Port) (a : Addr) : (s.noteRead p a).curDst = s.curDst := rfl
@[simp] theorem State.noteRead_key1 (p : Port) (a : Addr) : (s.noteRead p a).key1 = s.key1 := rfl
@[simp] theorem State.noteRead_doubleSpeed (p : Port) (a : Addr) : (s.noteRead p a).doubleSpeed = s.doubleSpeed := rfl
@[simp] theorem State.noteRead_vram0 (p : Port) (a : Addr) : (s.noteRead p a).vram0 = s.vram0 := rfl
@[simp] theorem State.noteRead_vram1 (p : Port) (a : Addr) : (s.noteRead p a).vram1 = s.vram1 := rfl
@[simp] theorem State.noteRead_fault (p : Port) (a : Addr) : (s.noteRead p a).fault = s.fault := rfl
@[simp] theorem State.noteRead_bootRomMapped (p : Port) (a : Addr) : (s.noteRead p a).bootRomMapped = s.bootRomMapped := rfl
@[simp] theorem State.noteRead_pending (p : Port) (a : Addr) : (s.noteRead p a).pending = s.pending := rfl
@[simp] theorem State.noteRead_refusals (p : Port) (a : Addr) : (s.noteRead p a).refusals = s.refusals := rfl
@[simp] theorem State.noteRead_replies (p : Port) (a : Addr) : (s.noteRead p a).replies = s.replies := rfl
@[simp] theorem State.noteRead_draws (p : Port) (a : Addr) : (s.noteRead p a).draws = s.draws := rfl
@[simp] theorem State.noteRead_events (p : Port) (a : Addr) : (s.noteRead p a).events = s.events := rfl
@[simp] theorem State.noteRead_reads (p : Port) (a : Addr) : (s.noteRead p a).reads = (p, a) :: s.reads := rfl
@[simp] theorem State.noteRead_result (p : Port) (a : Addr) : (s.noteRead p a).result = s.result := rfl

/-! ### noteRefusal -/

@[simp] theorem State.noteRefusal_params (w : OpWord) : (s.noteRefusal w).params = s.params := rfl
@[simp] theorem State.noteRefusal_vbk (w : OpWord) : (s.noteRefusal w).vbk = s.vbk := rfl
@[simp] theorem State.noteRefusal_bcps (w : OpWord) : (s.noteRefusal w).bcps = s.bcps := rfl
@[simp] theorem State.noteRefusal_ocps (w : OpWord) : (s.noteRefusal w).ocps = s.ocps := rfl
@[simp] theorem State.noteRefusal_bgpal (w : OpWord) : (s.noteRefusal w).bgpal = s.bgpal := rfl
@[simp] theorem State.noteRefusal_objpal (w : OpWord) : (s.noteRefusal w).objpal = s.objpal := rfl
@[simp] theorem State.noteRefusal_hdma1 (w : OpWord) : (s.noteRefusal w).hdma1 = s.hdma1 := rfl
@[simp] theorem State.noteRefusal_hdma2 (w : OpWord) : (s.noteRefusal w).hdma2 = s.hdma2 := rfl
@[simp] theorem State.noteRefusal_hdma3 (w : OpWord) : (s.noteRefusal w).hdma3 = s.hdma3 := rfl
@[simp] theorem State.noteRefusal_hdma4 (w : OpWord) : (s.noteRefusal w).hdma4 = s.hdma4 := rfl
@[simp] theorem State.noteRefusal_hdma5 (w : OpWord) : (s.noteRefusal w).hdma5 = s.hdma5 := rfl
@[simp] theorem State.noteRefusal_transferActive (w : OpWord) : (s.noteRefusal w).transferActive = s.transferActive := rfl
@[simp] theorem State.noteRefusal_curSrc (w : OpWord) : (s.noteRefusal w).curSrc = s.curSrc := rfl
@[simp] theorem State.noteRefusal_curDst (w : OpWord) : (s.noteRefusal w).curDst = s.curDst := rfl
@[simp] theorem State.noteRefusal_key1 (w : OpWord) : (s.noteRefusal w).key1 = s.key1 := rfl
@[simp] theorem State.noteRefusal_doubleSpeed (w : OpWord) : (s.noteRefusal w).doubleSpeed = s.doubleSpeed := rfl
@[simp] theorem State.noteRefusal_vram0 (w : OpWord) : (s.noteRefusal w).vram0 = s.vram0 := rfl
@[simp] theorem State.noteRefusal_vram1 (w : OpWord) : (s.noteRefusal w).vram1 = s.vram1 := rfl
@[simp] theorem State.noteRefusal_fault (w : OpWord) : (s.noteRefusal w).fault = s.fault := rfl
@[simp] theorem State.noteRefusal_bootRomMapped (w : OpWord) : (s.noteRefusal w).bootRomMapped = s.bootRomMapped := rfl
@[simp] theorem State.noteRefusal_pending (w : OpWord) : (s.noteRefusal w).pending = s.pending := rfl
@[simp] theorem State.noteRefusal_refusals (w : OpWord) : (s.noteRefusal w).refusals = w :: s.refusals := rfl
@[simp] theorem State.noteRefusal_replies (w : OpWord) : (s.noteRefusal w).replies = s.replies := rfl
@[simp] theorem State.noteRefusal_draws (w : OpWord) : (s.noteRefusal w).draws = s.draws := rfl
@[simp] theorem State.noteRefusal_events (w : OpWord) : (s.noteRefusal w).events = s.events := rfl
@[simp] theorem State.noteRefusal_reads (w : OpWord) : (s.noteRefusal w).reads = s.reads := rfl
@[simp] theorem State.noteRefusal_result (w : OpWord) : (s.noteRefusal w).result = s.result := rfl

/-! ### takeReply -/

@[simp] theorem takeReply_params : (takeReply s).params = s.params := rfl
@[simp] theorem takeReply_vbk : (takeReply s).vbk = s.vbk := rfl
@[simp] theorem takeReply_bcps : (takeReply s).bcps = s.bcps := rfl
@[simp] theorem takeReply_ocps : (takeReply s).ocps = s.ocps := rfl
@[simp] theorem takeReply_bgpal : (takeReply s).bgpal = s.bgpal := rfl
@[simp] theorem takeReply_objpal : (takeReply s).objpal = s.objpal := rfl
@[simp] theorem takeReply_hdma1 : (takeReply s).hdma1 = s.hdma1 := rfl
@[simp] theorem takeReply_hdma2 : (takeReply s).hdma2 = s.hdma2 := rfl
@[simp] theorem takeReply_hdma3 : (takeReply s).hdma3 = s.hdma3 := rfl
@[simp] theorem takeReply_hdma4 : (takeReply s).hdma4 = s.hdma4 := rfl
@[simp] theorem takeReply_hdma5 : (takeReply s).hdma5 = s.hdma5 := rfl
@[simp] theorem takeReply_transferActive : (takeReply s).transferActive = s.transferActive := rfl
@[simp] theorem takeReply_curSrc : (takeReply s).curSrc = s.curSrc := rfl
@[simp] theorem takeReply_curDst : (takeReply s).curDst = s.curDst := rfl
@[simp] theorem takeReply_key1 : (takeReply s).key1 = s.key1 := rfl
@[simp] theorem takeReply_doubleSpeed : (takeReply s).doubleSpeed = s.doubleSpeed := rfl
@[simp] theorem takeReply_vram0 : (takeReply s).vram0 = s.vram0 := rfl
@[simp] theorem takeReply_vram1 : (takeReply s).vram1 = s.vram1 := rfl
@[simp] theorem takeReply_fault : (takeReply s).fault = s.fault := rfl
@[simp] theorem takeReply_bootRomMapped : (takeReply s).bootRomMapped = s.bootRomMapped := rfl
@[simp] theorem takeReply_pending : (takeReply s).pending = s.pending := rfl
@[simp] theorem takeReply_refusals : (takeReply s).refusals = s.refusals := rfl
@[simp] theorem takeReply_replies : (takeReply s).replies = s.replies.tail := rfl
@[simp] theorem takeReply_draws : (takeReply s).draws = s.draws + 1 := rfl
@[simp] theorem takeReply_events : (takeReply s).events = s.events := rfl
@[simp] theorem takeReply_reads : (takeReply s).reads = s.reads := rfl
@[simp] theorem takeReply_result : (takeReply s).result = s.result := rfl

/-! ### setPalIndex -/

@[simp] theorem State.setPalIndex_params (m : PalMem) (v : Byte) : (s.setPalIndex m v).params = s.params := by cases m <;> rfl
@[simp] theorem State.setPalIndex_vbk (m : PalMem) (v : Byte) : (s.setPalIndex m v).vbk = s.vbk := by cases m <;> rfl
@[simp] theorem State.setPalIndex_bgpal (m : PalMem) (v : Byte) : (s.setPalIndex m v).bgpal = s.bgpal := by cases m <;> rfl
@[simp] theorem State.setPalIndex_objpal (m : PalMem) (v : Byte) : (s.setPalIndex m v).objpal = s.objpal := by cases m <;> rfl
@[simp] theorem State.setPalIndex_hdma1 (m : PalMem) (v : Byte) : (s.setPalIndex m v).hdma1 = s.hdma1 := by cases m <;> rfl
@[simp] theorem State.setPalIndex_hdma2 (m : PalMem) (v : Byte) : (s.setPalIndex m v).hdma2 = s.hdma2 := by cases m <;> rfl
@[simp] theorem State.setPalIndex_hdma3 (m : PalMem) (v : Byte) : (s.setPalIndex m v).hdma3 = s.hdma3 := by cases m <;> rfl
@[simp] theorem State.setPalIndex_hdma4 (m : PalMem) (v : Byte) : (s.setPalIndex m v).hdma4 = s.hdma4 := by cases m <;> rfl
@[simp] theorem State.setPalIndex_hdma5 (m : PalMem) (v : Byte) : (s.setPalIndex m v).hdma5 = s.hdma5 := by cases m <;> rfl
@[simp] theorem State.setPalIndex_transferActive (m : PalMem) (v : Byte) : (s.setPalIndex m v).transferActive = s.transferActive := by cases m <;> rfl
@[simp] theorem State.setPalIndex_curSrc (m : PalMem) (v : Byte) : (s.setPalIndex m v).curSrc = s.curSrc := by cases m <;> rfl
@[simp] theorem State.setPalIndex_curDst (m : PalMem) (v : Byte) : (s.setPalIndex m v).curDst = s.curDst := by cases m <;> rfl
@[simp] theorem State.setPalIndex_key1 (m : PalMem) (v : Byte) : (s.setPalIndex m v).key1 = s.key1 := by cases m <;> rfl
@[simp] theorem State.setPalIndex_doubleSpeed (m : PalMem) (v : Byte) : (s.setPalIndex m v).doubleSpeed = s.doubleSpeed := by cases m <;> rfl
@[simp] theorem State.setPalIndex_vram0 (m : PalMem) (v : Byte) : (s.setPalIndex m v).vram0 = s.vram0 := by cases m <;> rfl
@[simp] theorem State.setPalIndex_vram1 (m : PalMem) (v : Byte) : (s.setPalIndex m v).vram1 = s.vram1 := by cases m <;> rfl
@[simp] theorem State.setPalIndex_fault (m : PalMem) (v : Byte) : (s.setPalIndex m v).fault = s.fault := by cases m <;> rfl
@[simp] theorem State.setPalIndex_bootRomMapped (m : PalMem) (v : Byte) : (s.setPalIndex m v).bootRomMapped = s.bootRomMapped := by cases m <;> rfl
@[simp] theorem State.setPalIndex_pending (m : PalMem) (v : Byte) : (s.setPalIndex m v).pending = s.pending := by cases m <;> rfl
@[simp] theorem State.setPalIndex_refusals (m : PalMem) (v : Byte) : (s.setPalIndex m v).refusals = s.refusals := by cases m <;> rfl
@[simp] theorem State.setPalIndex_replies (m : PalMem) (v : Byte) : (s.setPalIndex m v).replies = s.replies := by cases m <;> rfl
@[simp] theorem State.setPalIndex_draws (m : PalMem) (v : Byte) : (s.setPalIndex m v).draws = s.draws := by cases m <;> rfl
@[simp] theorem State.setPalIndex_events (m : PalMem) (v : Byte) : (s.setPalIndex m v).events = s.events := by cases m <;> rfl
@[simp] theorem State.setPalIndex_reads (m : PalMem) (v : Byte) : (s.setPalIndex m v).reads = s.reads := by cases m <;> rfl
@[simp] theorem State.setPalIndex_result (m : PalMem) (v : Byte) : (s.setPalIndex m v).result = s.result := by cases m <;> rfl

/-! ### setPalEntry -/

@[simp] theorem State.setPalEntry_params (m : PalMem) (i : Fin 32) (e : Entry) : (s.setPalEntry m i e).params = s.params := by cases m <;> rfl
@[simp] theorem State.setPalEntry_vbk (m : PalMem) (i : Fin 32) (e : Entry) : (s.setPalEntry m i e).vbk = s.vbk := by cases m <;> rfl
@[simp] theorem State.setPalEntry_bcps (m : PalMem) (i : Fin 32) (e : Entry) : (s.setPalEntry m i e).bcps = s.bcps := by cases m <;> rfl
@[simp] theorem State.setPalEntry_ocps (m : PalMem) (i : Fin 32) (e : Entry) : (s.setPalEntry m i e).ocps = s.ocps := by cases m <;> rfl
@[simp] theorem State.setPalEntry_hdma1 (m : PalMem) (i : Fin 32) (e : Entry) : (s.setPalEntry m i e).hdma1 = s.hdma1 := by cases m <;> rfl
@[simp] theorem State.setPalEntry_hdma2 (m : PalMem) (i : Fin 32) (e : Entry) : (s.setPalEntry m i e).hdma2 = s.hdma2 := by cases m <;> rfl
@[simp] theorem State.setPalEntry_hdma3 (m : PalMem) (i : Fin 32) (e : Entry) : (s.setPalEntry m i e).hdma3 = s.hdma3 := by cases m <;> rfl
@[simp] theorem State.setPalEntry_hdma4 (m : PalMem) (i : Fin 32) (e : Entry) : (s.setPalEntry m i e).hdma4 = s.hdma4 := by cases m <;> rfl
@[simp] theorem State.setPalEntry_hdma5 (m : PalMem) (i : Fin 32) (e : Entry) : (s.setPalEntry m i e).hdma5 = s.hdma5 := by cases m <;> rfl
@[simp] theorem State.setPalEntry_transferActive (m : PalMem) (i : Fin 32) (e : Entry) : (s.setPalEntry m i e).transferActive = s.transferActive := by cases m <;> rfl
@[simp] theorem State.setPalEntry_curSrc (m : PalMem) (i : Fin 32) (e : Entry) : (s.setPalEntry m i e).curSrc = s.curSrc := by cases m <;> rfl
@[simp] theorem State.setPalEntry_curDst (m : PalMem) (i : Fin 32) (e : Entry) : (s.setPalEntry m i e).curDst = s.curDst := by cases m <;> rfl
@[simp] theorem State.setPalEntry_key1 (m : PalMem) (i : Fin 32) (e : Entry) : (s.setPalEntry m i e).key1 = s.key1 := by cases m <;> rfl
@[simp] theorem State.setPalEntry_doubleSpeed (m : PalMem) (i : Fin 32) (e : Entry) : (s.setPalEntry m i e).doubleSpeed = s.doubleSpeed := by cases m <;> rfl
@[simp] theorem State.setPalEntry_vram0 (m : PalMem) (i : Fin 32) (e : Entry) : (s.setPalEntry m i e).vram0 = s.vram0 := by cases m <;> rfl
@[simp] theorem State.setPalEntry_vram1 (m : PalMem) (i : Fin 32) (e : Entry) : (s.setPalEntry m i e).vram1 = s.vram1 := by cases m <;> rfl
@[simp] theorem State.setPalEntry_fault (m : PalMem) (i : Fin 32) (e : Entry) : (s.setPalEntry m i e).fault = s.fault := by cases m <;> rfl
@[simp] theorem State.setPalEntry_bootRomMapped (m : PalMem) (i : Fin 32) (e : Entry) : (s.setPalEntry m i e).bootRomMapped = s.bootRomMapped := by cases m <;> rfl
@[simp] theorem State.setPalEntry_pending (m : PalMem) (i : Fin 32) (e : Entry) : (s.setPalEntry m i e).pending = s.pending := by cases m <;> rfl
@[simp] theorem State.setPalEntry_refusals (m : PalMem) (i : Fin 32) (e : Entry) : (s.setPalEntry m i e).refusals = s.refusals := by cases m <;> rfl
@[simp] theorem State.setPalEntry_replies (m : PalMem) (i : Fin 32) (e : Entry) : (s.setPalEntry m i e).replies = s.replies := by cases m <;> rfl
@[simp] theorem State.setPalEntry_draws (m : PalMem) (i : Fin 32) (e : Entry) : (s.setPalEntry m i e).draws = s.draws := by cases m <;> rfl
@[simp] theorem State.setPalEntry_events (m : PalMem) (i : Fin 32) (e : Entry) : (s.setPalEntry m i e).events = s.events := by cases m <;> rfl
@[simp] theorem State.setPalEntry_reads (m : PalMem) (i : Fin 32) (e : Entry) : (s.setPalEntry m i e).reads = s.reads := by cases m <;> rfl
@[simp] theorem State.setPalEntry_result (m : PalMem) (i : Fin 32) (e : Entry) : (s.setPalEntry m i e).result = s.result := by cases m <;> rfl

/-! ### setVram -/

@[simp] theorem State.setVram_params (b : Bank) (m : Memory) : (s.setVram b m).params = s.params := by
  unfold State.setVram; split <;> rfl
@[simp] theorem State.setVram_vbk (b : Bank) (m : Memory) : (s.setVram b m).vbk = s.vbk := by
  unfold State.setVram; split <;> rfl
@[simp] theorem State.setVram_bcps (b : Bank) (m : Memory) : (s.setVram b m).bcps = s.bcps := by
  unfold State.setVram; split <;> rfl
@[simp] theorem State.setVram_ocps (b : Bank) (m : Memory) : (s.setVram b m).ocps = s.ocps := by
  unfold State.setVram; split <;> rfl
@[simp] theorem State.setVram_bgpal (b : Bank) (m : Memory) : (s.setVram b m).bgpal = s.bgpal := by
  unfold State.setVram; split <;> rfl
@[simp] theorem State.setVram_objpal (b : Bank) (m : Memory) : (s.setVram b m).objpal = s.objpal := by
  unfold State.setVram; split <;> rfl
@[simp] theorem State.setVram_hdma1 (b : Bank) (m : Memory) : (s.setVram b m).hdma1 = s.hdma1 := by
  unfold State.setVram; split <;> rfl
@[simp] theorem State.setVram_hdma2 (b : Bank) (m : Memory) : (s.setVram b m).hdma2 = s.hdma2 := by
  unfold State.setVram; split <;> rfl
@[simp] theorem State.setVram_hdma3 (b : Bank) (m : Memory) : (s.setVram b m).hdma3 = s.hdma3 := by
  unfold State.setVram; split <;> rfl
@[simp] theorem State.setVram_hdma4 (b : Bank) (m : Memory) : (s.setVram b m).hdma4 = s.hdma4 := by
  unfold State.setVram; split <;> rfl
@[simp] theorem State.setVram_hdma5 (b : Bank) (m : Memory) : (s.setVram b m).hdma5 = s.hdma5 := by
  unfold State.setVram; split <;> rfl
@[simp] theorem State.setVram_transferActive (b : Bank) (m : Memory) : (s.setVram b m).transferActive = s.transferActive := by
  unfold State.setVram; split <;> rfl
@[simp] theorem State.setVram_curSrc (b : Bank) (m : Memory) : (s.setVram b m).curSrc = s.curSrc := by
  unfold State.setVram; split <;> rfl
@[simp] theorem State.setVram_curDst (b : Bank) (m : Memory) : (s.setVram b m).curDst = s.curDst := by
  unfold State.setVram; split <;> rfl
@[simp] theorem State.setVram_key1 (b : Bank) (m : Memory) : (s.setVram b m).key1 = s.key1 := by
  unfold State.setVram; split <;> rfl
@[simp] theorem State.setVram_doubleSpeed (b : Bank) (m : Memory) : (s.setVram b m).doubleSpeed = s.doubleSpeed := by
  unfold State.setVram; split <;> rfl
@[simp] theorem State.setVram_fault (b : Bank) (m : Memory) : (s.setVram b m).fault = s.fault := by
  unfold State.setVram; split <;> rfl
@[simp] theorem State.setVram_bootRomMapped (b : Bank) (m : Memory) : (s.setVram b m).bootRomMapped = s.bootRomMapped := by
  unfold State.setVram; split <;> rfl
@[simp] theorem State.setVram_pending (b : Bank) (m : Memory) : (s.setVram b m).pending = s.pending := by
  unfold State.setVram; split <;> rfl
@[simp] theorem State.setVram_refusals (b : Bank) (m : Memory) : (s.setVram b m).refusals = s.refusals := by
  unfold State.setVram; split <;> rfl
@[simp] theorem State.setVram_replies (b : Bank) (m : Memory) : (s.setVram b m).replies = s.replies := by
  unfold State.setVram; split <;> rfl
@[simp] theorem State.setVram_draws (b : Bank) (m : Memory) : (s.setVram b m).draws = s.draws := by
  unfold State.setVram; split <;> rfl
@[simp] theorem State.setVram_events (b : Bank) (m : Memory) : (s.setVram b m).events = s.events := by
  unfold State.setVram; split <;> rfl
@[simp] theorem State.setVram_reads (b : Bank) (m : Memory) : (s.setVram b m).reads = s.reads := by
  unfold State.setVram; split <;> rfl
@[simp] theorem State.setVram_result (b : Bank) (m : Memory) : (s.setVram b m).result = s.result := by
  unfold State.setVram; split <;> rfl

/-! ### Reading back through the accessors -/

@[simp] theorem State.palIndex_setPalIndex (m : PalMem) (v : Byte) : (s.setPalIndex m v).palIndex m = v := by
  cases m <;> rfl

@[simp] theorem State.palIndex_setPalEntry (m m' : PalMem) (i : Fin 32) (e : Entry) :
    (s.setPalEntry m i e).palIndex m' = s.palIndex m' := by
  cases m <;> cases m' <;> rfl

@[simp] theorem State.palEntry_setPalIndex (m m' : PalMem) (v : Byte) (i : Fin 32) :
    (s.setPalIndex m v).palEntry m' i = s.palEntry m' i := by
  cases m <;> cases m' <;> rfl

theorem State.palEntry_setPalEntry (m m' : PalMem) (i j : Fin 32) (e : Entry) :
    (s.setPalEntry m i e).palEntry m' j = if m' = m ∧ j = i then e else s.palEntry m' j := by
  cases m <;> cases m' <;> simp [State.setPalEntry, State.palEntry, Vector.getElem_set, Fin.ext_iff, eq_comm]

@[simp] theorem State.palEntry_setPalEntry_same (m : PalMem) (i : Fin 32) (e : Entry) :
    (s.setPalEntry m i e).palEntry m i = e := by
  simp [State.palEntry_setPalEntry]

theorem State.vram_setVram (b b' : Bank) (m : Memory) :
    (s.setVram b m).vram b' = if b' = b then m else s.vram b' := by
  have hb : b = 0#1 ∨ b = 1#1 := by revert b; decide
  have hb' : b' = 0#1 ∨ b' = 1#1 := by revert b'; decide
  rcases hb with rfl | rfl <;> rcases hb' with rfl | rfl <;> simp [State.setVram, State.vram]

@[simp] theorem State.vram_setVram_same (b : Bank) (m : Memory) : (s.setVram b m).vram b = m := by
  simp [State.vram_setVram]

@[simp] theorem State.vram_setVbk (b : Bank) (b' : Bank) : (s.setVbk b).vram b' = s.vram b' := rfl
@[simp] theorem State.vram_setHdma1 (v : Byte) (b' : Bank) : (s.setHdma1 v).vram b' = s.vram b' := rfl
@[simp] theorem State.vram_setHdma2 (v : Byte) (b' : Bank) : (s.setHdma2 v).vram b' = s.vram b' := rfl
@[simp] theorem State.vram_setHdma3 (v : Byte) (b' : Bank) : (s.setHdma3 v).vram b' = s.vram b' := rfl
@[simp] theorem State.vram_setHdma4 (v : Byte) (b' : Bank) : (s.setHdma4 v).vram b' = s.vram b' := rfl
@[simp] theorem State.vram_setHdma5 (v : Byte) (b' : Bank) : (s.setHdma5 v).vram b' = s.vram b' := rfl
@[simp] theorem State.vram_setActive (b : Bool) (b' : Bank) : (s.setActive b).vram b' = s.vram b' := rfl
@[simp] theorem State.vram_setCursors (x y : Addr) (b' : Bank) : (s.setCursors x y).vram b' = s.vram b' := rfl
@[simp] theorem State.vram_setKey1 (v : Byte) (b' : Bank) : (s.setKey1 v).vram b' = s.vram b' := rfl
@[simp] theorem State.vram_setDoubleSpeed (b : Bool) (b' : Bank) : (s.setDoubleSpeed b).vram b' = s.vram b' := rfl
@[simp] theorem State.vram_setFault (f : Option BlockFault) (b' : Bank) : (s.setFault f).vram b' = s.vram b' := rfl
@[simp] theorem State.vram_setBootRomMapped (b : Bool) (b' : Bank) : (s.setBootRomMapped b).vram b' = s.vram b' := rfl
@[simp] theorem State.vram_setResult (r : Option Result) (b' : Bank) : (s.setResult r).vram b' = s.vram b' := rfl
@[simp] theorem State.vram_setPending (ws : List OpWord) (b' : Bank) : (s.setPending ws).vram b' = s.vram b' := rfl
@[simp] theorem State.vram_emit (e : Event) (b' : Bank) : (s.emit e).vram b' = s.vram b' := rfl
@[simp] theorem State.vram_noteRead (p : Port) (a : Addr) (b' : Bank) : (s.noteRead p a).vram b' = s.vram b' := rfl
@[simp] theorem State.vram_noteRefusal (w : OpWord) (b' : Bank) : (s.noteRefusal w).vram b' = s.vram b' := rfl
@[simp] theorem vram_takeReply (b' : Bank) : (takeReply s).vram b' = s.vram b' := rfl
@[simp] theorem State.vram_setPalIndex (m : PalMem) (v : Byte) (b' : Bank) : (s.setPalIndex m v).vram b' = s.vram b' := by cases m <;> rfl
@[simp] theorem State.vram_setPalEntry (m : PalMem) (i : Fin 32) (e : Entry) (b' : Bank) : (s.setPalEntry m i e).vram b' = s.vram b' := by cases m <;> rfl

end

end Sys2Proof.Machine
end

