-- ==== Sys2Proof/Laws/Ops.lean ====
section
/-! SUPPORT. What the shared operations of `Machine/Ops.lean` do: VRAM reads and writes, the operation frame, raising a
fault, the collaborator ports. -/

namespace Sys2Proof.Machine

/-! ### VRAM -/

theorem inVram_iff (a : Addr) : inVram a = true ↔ 0x8000 ≤ a.toNat ∧ a.toNat < 0xA000 := by
  simp [inVram, BitVec.le_def, BitVec.lt_def]

/-- An address in the window has an offset inside the bank. -/
theorem vramOffset_lt {a : Addr} (h : inVram a = true) : vramOffset a < Memory.size := by
  rw [inVram_iff] at h; unfold vramOffset Memory.size; omega

/-- Two window addresses with the same offset are the same address. -/
theorem vramOffset_inj {a b : Addr} (ha : inVram a = true) (hb : inVram b = true) :
    vramOffset a = vramOffset b ↔ a = b := by
  rw [inVram_iff] at ha hb
  unfold vramOffset
  constructor
  · intro h; exact BitVec.eq_of_toNat_eq (by omega)
  · rintro rfl; rfl

/-- Both banks are in canonical form. -/
def State.VramWf (s : State) : Prop := Memory.wf s.vram0 = true ∧ Memory.wf s.vram1 = true

theorem State.VramWf.bank {s : State} (h : s.VramWf) (b : Bank) : Memory.wf (s.vram b) = true := by
  unfold State.vram; split
  · exact h.1
  · exact h.2

theorem State.VramWf.setVram {s : State} (h : s.VramWf) (b : Bank) {m : Memory} (hm : Memory.wf m = true) :
    (s.setVram b m).VramWf := by
  unfold State.setVram; split
  · exact ⟨hm, h.2⟩
  · exact ⟨h.1, hm⟩

/-- A VRAM write keeps both banks in canonical form. -/
theorem writeVram_wf {s : State} (h : s.VramWf) (b : Bank) {a : Addr} (ha : inVram a = true) (v : Byte) :
    (writeVram b a v s).VramWf :=
  h.setVram b (Memory.wf_write (vramOffset_lt ha) (h.bank b))

/-- Reading VRAM after writing one byte of it: that byte, and nothing else, changed. -/
theorem readVram_writeVram {s : State} (h : s.VramWf) (b b' : Bank) {a a' : Addr} (ha : inVram a = true)
    (ha' : inVram a' = true) (v : Byte) :
    readVram b' a' (writeVram b a v s) = if b' = b ∧ a' = a then v else readVram b' a' s := by
  unfold readVram writeVram
  rw [State.vram_emit, State.vram_setVram]
  by_cases hb : b' = b
  · subst hb
    rw [if_pos rfl, Memory.read_write (h.bank b')]
    simp [vramOffset_inj ha' ha]
  · simp [hb]

theorem readVram_congr {s t : State} (h : ∀ b, t.vram b = s.vram b) (b : Bank) (a : Addr) :
    readVram b a t = readVram b a s := by
  unfold readVram; rw [h]

/-! ### The operation frame (R301) -/

/-- Every operation answers a next state. -/
theorem operation_next (f : State → State) (s : State) :
    operation f s = .next (if s.fault.isSome then s.setResult none else f (s.setResult none)) := rfl

/-- While a fault is set an operation has no effect. -/
theorem operation_faulted (f : State → State) {s : State} (h : s.fault.isSome = true) :
    operation f s = .next (s.setResult none) := by
  simp [operation, h]

/-- Without a fault an operation has its effect. -/
theorem operation_running (f : State → State) {s : State} (h : s.fault = none) :
    operation f s = .next (f (s.setResult none)) := by
  simp [operation, h]

theorem readOperation_running (f : State → Fetched) {s : State} (h : s.fault = none) :
    readOperation f s = .next ((f (s.setResult none)).2.setResult ((f (s.setResult none)).1.map .byte)) := by
  simp [readOperation, operation, h]

theorem readOperation_faulted (f : State → Fetched) {s : State} (h : s.fault.isSome = true) :
    readOperation f s = .next (s.setResult none) := operation_faulted _ h

@[simp] theorem nextReply_setResult (s : State) (r : Option Result) : nextReply (s.setResult r) = nextReply s := rfl

@[simp] theorem readVram_setResult (s : State) (r : Option Result) (b : Bank) (a : Addr) :
    readVram b a (s.setResult r) = readVram b a s := rfl

@[simp] theorem raiseFault_fault (f : BlockFault) (s : State) : (raiseFault f s).fault = some f := rfl

@[simp] theorem raiseFault_result (f : BlockFault) (s : State) : (raiseFault f s).result = none := rfl

@[simp] theorem raiseFault_events (f : BlockFault) (s : State) : (raiseFault f s).events = s.events := rfl

@[simp] theorem raiseFault_vram (f : BlockFault) (s : State) (b : Bank) : (raiseFault f s).vram b = s.vram b := rfl

end Sys2Proof.Machine
end

