-- ==== Sys2Proof/Laws/Bus.lean ====
section
/-! SUPPORT. What a system bus access and a copy loop can do: the frame of registers they leave alone, the VRAM they
leave alone, and the induction over the loop, packaged once. -/

namespace Sys2Proof.Machine

/-- What no access of the DMA engine changes. -/
structure BusFrame (s t : State) : Prop where
  params : t.params = s.params
  vbk : t.vbk = s.vbk
  bcps : t.bcps = s.bcps
  ocps : t.ocps = s.ocps
  bgpal : t.bgpal = s.bgpal
  objpal : t.objpal = s.objpal
  hdma1 : t.hdma1 = s.hdma1
  hdma2 : t.hdma2 = s.hdma2
  hdma3 : t.hdma3 = s.hdma3
  hdma4 : t.hdma4 = s.hdma4
  hdma5 : t.hdma5 = s.hdma5
  transferActive : t.transferActive = s.transferActive
  curSrc : t.curSrc = s.curSrc
  curDst : t.curDst = s.curDst
  key1 : t.key1 = s.key1
  doubleSpeed : t.doubleSpeed = s.doubleSpeed
  bootRomMapped : t.bootRomMapped = s.bootRomMapped
  pending : t.pending = s.pending
  refusals : t.refusals = s.refusals

theorem BusFrame.refl (s : State) : BusFrame s s := by constructor <;> rfl

theorem BusFrame.trans {s t u : State} (h : BusFrame s t) (k : BusFrame t u) : BusFrame s u where
  params := k.params.trans h.params
  vbk := k.vbk.trans h.vbk
  bcps := k.bcps.trans h.bcps
  ocps := k.ocps.trans h.ocps
  bgpal := k.bgpal.trans h.bgpal
  objpal := k.objpal.trans h.objpal
  hdma1 := k.hdma1.trans h.hdma1
  hdma2 := k.hdma2.trans h.hdma2
  hdma3 := k.hdma3.trans h.hdma3
  hdma4 := k.hdma4.trans h.hdma4
  hdma5 := k.hdma5.trans h.hdma5
  transferActive := k.transferActive.trans h.transferActive
  curSrc := k.curSrc.trans h.curSrc
  curDst := k.curDst.trans h.curDst
  key1 := k.key1.trans h.key1
  doubleSpeed := k.doubleSpeed.trans h.doubleSpeed
  bootRomMapped := k.bootRomMapped.trans h.bootRomMapped
  pending := k.pending.trans h.pending
  refusals := k.refusals.trans h.refusals

/-- The whole record: a state framed by `s` is `s` with the fields a copy may change. -/
theorem BusFrame.eq {s t : State} (h : BusFrame s t) :
    t = { s with vram0 := t.vram0, vram1 := t.vram1, fault := t.fault, replies := t.replies, draws := t.draws,
                 events := t.events, reads := t.reads, result := t.result } := by
  cases s; cases t
  obtain ⟨h1, h2, h3, h4, h5, h6, h7, h8, h9, h10, h11, h12, h13, h14, h15, h16, h17, h18, h19⟩ := h
  simp only at *
  subst h1 h2 h3 h4 h5 h6 h7 h8 h9 h10 h11 h12 h13 h14 h15 h16 h17 h18 h19
  rfl

/-! ### Reads -/

/-- What a read of the router or the bus can do: it yields a byte, or it raises a fault, and it changes nothing but the
collaborators' answers, the record of reads, and (with a fault) the fault and the result. -/
structure ReadSpec (s : State) (r : Fetched) : Prop where
  frame : BusFrame s r.2
  vram0 : r.2.vram0 = s.vram0
  vram1 : r.2.vram1 = s.vram1
  events : r.2.events = s.events
  ok : ∀ b, r.1 = some b → r.2.fault = s.fault ∧ r.2.result = s.result
  failed : r.1 = none → r.2.fault.isSome = true ∧ r.2.result = none

theorem ReadSpec.vram {s : State} {r : Fetched} (h : ReadSpec s r) (b : Bank) : r.2.vram b = s.vram b := by
  unfold State.vram; rw [h.vram0, h.vram1]

theorem ownByte_spec (v : Byte) (s : State) : ReadSpec s (ownByte v s) where
  frame := BusFrame.refl s
  vram0 := rfl
  vram1 := rfl
  events := rfl
  ok _ _ := ⟨rfl, rfl⟩
  failed h := nomatch h

theorem extRead_spec (p : Port) (a : Addr) (s : State) : ReadSpec s (extRead p a s) where
  frame := by constructor <;> rfl
  vram0 := rfl
  vram1 := rfl
  events := rfl
  ok _ _ := ⟨rfl, rfl⟩
  failed h := nomatch h

theorem writeOnlyRead_spec (a : Addr) (s : State) : ReadSpec s (writeOnlyRead a s) where
  frame := by constructor <;> rfl
  vram0 := rfl
  vram1 := rfl
  events := rfl
  ok _ h := nomatch h
  failed _ := ⟨rfl, rfl⟩

theorem failedStoreRead_spec (a : Addr) (s : State) :
    ReadSpec s (none, raiseFault (.storeFail a) ((takeReply s).noteRead .store a)) where
  frame := by constructor <;> simp [raiseFault]
  vram0 := rfl
  vram1 := rfl
  events := rfl
  ok _ h := nomatch h
  failed _ := ⟨rfl, rfl⟩

theorem storeRead_spec (a : Addr) (s : State) : ReadSpec s (storeRead a s) := by
  unfold storeRead
  split
  · exact failedStoreRead_spec a s
  · exact extRead_spec .store a s

theorem readAudio_spec (a : Addr) (s : State) : ReadSpec s (readAudio a s) := by
  unfold readAudio
  split
  · exact extRead_spec .audio a s
  · exact ownByte_spec _ s

theorem routerRead_spec (a : Addr) (s : State) : ReadSpec s (routerRead a s) := by
  unfold routerRead
  split
  all_goals first
    | exact extRead_spec _ _ s
    | exact readAudio_spec _ s
    | exact storeRead_spec _ s
    | exact writeOnlyRead_spec _ s
    | exact ownByte_spec _ s

theorem memRead_spec (a : Addr) (s : State) : ReadSpec s (memRead a s) := by
  unfold memRead
  split
  · exact ownByte_spec _ s
  · split
    · exact routerRead_spec a s
    · exact extRead_spec _ _ s

/-- A read of an external address. -/
theorem memRead_external {a : Addr} {s : State} (h : isExternal s.params a = true) :
    memRead a s = extRead .sys a s := by
  simp only [isExternal, Bool.and_eq_true, Bool.not_eq_true'] at h
  simp [memRead, h.1, h.2]

/-- A read of VRAM reads the active bank. -/
theorem memRead_vram {a : Addr} {s : State} (h : inVram a = true) :
    memRead a s = (some (readVram s.vbk a s), s) := by
  simp [memRead, h, ownByte]

/-! ### Writes of the DMA engine -/

/-- No address below 0xA800 is in the router window (R71). -/
theorem inRouterWindow_low (p : Params) {a : Addr} (h : a.toNat < 0xA800) : inRouterWindow p a = false := by
  have : ¬ (0xA7FF#16 < a) := by rw [BitVec.lt_def]; simp; omega
  simp [inRouterWindow, this]

/-- A DMA write goes to VRAM or to the external bus, never to the router (R82). -/
theorem memWrite_low {a : Addr} (v : Byte) (s : State) (h : a.toNat < 0xA800) :
    memWrite a v s = if inVram a then writeVram s.vbk a v s else extWrite .sys a v s := by
  simp [memWrite, inRouterWindow_low s.params h]

theorem writeVram_frame (b : Bank) (a : Addr) (v : Byte) (s : State) : BusFrame s (writeVram b a v s) := by
  constructor <;> simp [writeVram]

theorem memWrite_frame {a : Addr} (v : Byte) (s : State) (h : a.toNat < 0xA800) : BusFrame s (memWrite a v s) := by
  rw [memWrite_low v s h]
  split
  · exact writeVram_frame _ _ _ _
  · constructor <;> rfl

theorem memWrite_fault {a : Addr} (v : Byte) (s : State) (h : a.toNat < 0xA800) :
    (memWrite a v s).fault = s.fault := by
  rw [memWrite_low v s h]
  split <;> simp [writeVram, extWrite]

theorem memWrite_result {a : Addr} (v : Byte) (s : State) (h : a.toNat < 0xA800) :
    (memWrite a v s).result = s.result := by
  rw [memWrite_low v s h]
  split <;> simp [writeVram, extWrite]

theorem memWrite_vramWf {a : Addr} (v : Byte) {s : State} (hs : s.VramWf) (h : a.toNat < 0xA800) :
    (memWrite a v s).VramWf := by
  rw [memWrite_low v s h]
  split
  · rename_i ha; exact writeVram_wf hs _ ha v
  · exact hs

/-- A DMA write changes at most the byte it is addressed to, in the active bank. -/
theorem memWrite_readVram {a : Addr} (v : Byte) {s : State} (hs : s.VramWf) (h : a.toNat < 0xA800) (b : Bank) {a' : Addr}
    (ha' : inVram a' = true) :
    readVram b a' (memWrite a v s) = if b = s.vbk ∧ a' = a then v else readVram b a' s := by
  rw [memWrite_low v s h]
  split
  · rename_i ha; exact readVram_writeVram hs _ _ ha ha' v
  · rename_i ha
    rw [if_neg (by rintro ⟨-, rfl⟩; exact ha ha')]
    rfl

/-! ### What the collaborators answer (logs 10, 11) -/

/-- The next reply is the first answer. -/
theorem nextReply_eq (s : State) : nextReply s = ⟨answer s 0, answerFails s 0⟩ := by
  unfold nextReply answer answerFails
  cases s.replies <;> rfl

/-- Drawing an answer leaves the later ones. -/
theorem answer_takeReply (s : State) (i : Nat) : answer (takeReply s) i = answer s (i + 1) := by
  unfold answer takeReply
  cases s.replies <;> simp [Nat.add_assoc, Nat.add_comm 1]

theorem answerFails_takeReply (s : State) (i : Nat) : answerFails (takeReply s) i = answerFails s (i + 1) := by
  unfold answerFails takeReply
  cases s.replies <;> simp [Nat.add_assoc, Nat.add_comm 1]

/-! ### The copy loop -/

@[simp] theorem nth_zero (a : Addr) : nth a 0 = a := by simp [nth]

theorem nth_succ (a : Addr) (i : Nat) : nth a (i + 1) = nth (a + 1#16) i := by
  unfold nth
  rw [BitVec.add_assoc]; congr 1
  rw [← BitVec.ofNat_add]; congr 1; omega

/-- The addresses a copy of `n` bytes to `dst` writes lie below 0xA800. -/
theorem copy_step_bound {n : Nat} {dst : Addr} (h : dst.toNat + (n + 1) ≤ 0xA800) :
    dst.toNat < 0xA800 ∧ (dst + 1#16).toNat + n ≤ 0xA800 := by
  have h2 : (dst + 1#16).toNat ≤ dst.toNat + 1 := by
    rw [BitVec.toNat_add]; exact Nat.mod_le _ _
  omega

/-- One unfolding of the loop for a destination below 0xA800: a read that faults ends it, else the byte is written and
the loop goes on (a DMA write raises no fault). -/
theorem copyBytes_succ {n : Nat} (src dst : Addr) {s : State} (hd : dst.toNat < 0xA800) (hs : s.fault = none) :
    copyBytes (n + 1) src dst s =
      match memRead src s with
      | (none, s₁) => s₁
      | (some b, s₁) => copyBytes n (src + 1#16) (dst + 1#16) (memWrite dst b s₁) := by
  rw [copyBytes]
  have hr := memRead_spec src s
  rcases hm : memRead src s with ⟨_ | b, s₁⟩
  · rfl
  · rw [hm] at hr
    have hf : (memWrite dst b s₁).fault = none := by
      rw [memWrite_fault b s₁ hd, (hr.ok b rfl).1, hs]
    simp [hf]

/-- Induction over the loop: a reflexive and transitive relation that every read and every write below 0xA800 keeps is
kept by the whole copy. -/
theorem copyBytes_rel (R : State → State → Prop) (refl : ∀ s, R s s) (trans : ∀ s t u, R s t → R t u → R s u)
    (read : ∀ a s, R s (memRead a s).2) (write : ∀ a v s, a.toNat < 0xA800 → R s (memWrite a v s)) :
    ∀ (n : Nat) (src dst : Addr) (s : State), dst.toNat + n ≤ 0xA800 → R s (copyBytes n src dst s) := by
  intro n
  induction n with
  | zero => intro src dst s _; exact refl s
  | succ n ih =>
    intro src dst s h
    obtain ⟨hd, hd'⟩ := copy_step_bound h
    rw [copyBytes]
    have hr := read src s
    split
    · rename_i s₁ heq
      rw [heq] at hr; exact hr
    · rename_i b s₁ heq
      rw [heq] at hr
      have hw := trans _ _ _ hr (write dst b s₁ hd)
      split
      · exact hw
      · exact trans _ _ _ hw (ih _ _ _ hd')

/-- A copy changes no register. -/
theorem copyBytes_frame (n : Nat) (src dst : Addr) (s : State) (h : dst.toNat + n ≤ 0xA800) :
    BusFrame s (copyBytes n src dst s) :=
  copyBytes_rel BusFrame BusFrame.refl (fun _ _ _ => BusFrame.trans) (fun a s => (memRead_spec a s).frame)
    (fun _ v s ha => memWrite_frame v s ha) n src dst s h

/-- A copy keeps the banks in canonical form. -/
theorem copyBytes_vramWf (n : Nat) (src dst : Addr) {s : State} (hs : s.VramWf) (h : dst.toNat + n ≤ 0xA800) :
    (copyBytes n src dst s).VramWf := by
  refine copyBytes_rel (fun s t => s.VramWf → t.VramWf) (fun _ h => h) (fun _ _ _ h k hs => k (h hs)) ?_ ?_
    n src dst s h hs
  · intro a s hs
    have hr := memRead_spec a s
    unfold State.VramWf; rw [hr.vram0, hr.vram1]; exact hs
  · intro a v s ha hs; exact memWrite_vramWf v hs ha

/-- What a copy leaves in VRAM outside the bytes it is addressed to. -/
theorem copyBytes_outside (n : Nat) : ∀ (src dst : Addr) {s : State}, s.VramWf → dst.toNat + n ≤ 0xA800 →
    ∀ (b : Bank) (a : Addr), inVram a = true → (b = s.vbk → ∀ i < n, a ≠ nth dst i) →
    readVram b a (copyBytes n src dst s) = readVram b a s := by
  induction n with
  | zero => intros; rfl
  | succ n ih =>
    intro src dst s hs h b a ha hout
    obtain ⟨hd, hd'⟩ := copy_step_bound h
    rw [copyBytes]
    have hr := memRead_spec src s
    split
    · rename_i s₁ heq
      rw [heq] at hr
      exact readVram_congr hr.vram b a
    · rename_i v s₁ heq
      rw [heq] at hr
      have hs₁ : s₁.VramWf := by unfold State.VramWf; rw [hr.vram0, hr.vram1]; exact hs
      have hone : readVram b a (memWrite dst v s₁) = readVram b a s := by
        rw [memWrite_readVram v hs₁ hd b ha, if_neg, readVram_congr hr.vram b a]
        rintro ⟨hb, rfl⟩
        exact hout (hb.trans hr.frame.vbk) 0 (by omega) (by simp [nth])
      split
      · exact hone
      · rw [ih _ _ (memWrite_vramWf v hs₁ hd) hd' b a ha, hone]
        intro hb i hi
        have := hout (by rw [hb, (memWrite_frame v s₁ hd).vbk, hr.frame.vbk]) (i + 1) (by omega)
        rw [← nth_succ]; exact this

/-- Without a wrap the addresses of a copy are distinct: the first is none of the later ones. -/
theorem ne_nth_succ {a : Addr} {n : Nat} (h : a.toNat + n ≤ 0xA800) {i : Nat} (hi : i < n) : a ≠ nth (a + 1#16) i := by
  rw [← nth_succ]
  intro e
  have := congrArg BitVec.toNat e
  simp only [nth, BitVec.toNat_add, BitVec.toNat_ofNat] at this
  omega

/-- A copy that ends in a fault ends in the read of some byte `k`, from the state `k` bytes leave (R303). -/
theorem copyBytes_stop (n : Nat) : ∀ (src dst : Addr) {s : State}, s.fault = none → dst.toNat + n ≤ 0xA800 →
    (copyBytes n src dst s).fault ≠ none →
    ∃ k < n, (copyBytes k src dst s).fault = none ∧
      memRead (nth src k) (copyBytes k src dst s) = (none, copyBytes n src dst s) := by
  induction n with
  | zero => intro _ _ s hs _ hf; exact absurd hs hf
  | succ n ih =>
    intro src dst s hs h hf
    obtain ⟨hd, hd'⟩ := copy_step_bound h
    have hr := memRead_spec src s
    rw [copyBytes_succ src dst hd hs] at hf ⊢
    rcases hm : memRead src s with ⟨_ | b, s₁⟩
    · exact ⟨0, by omega, hs, by simpa [copyBytes] using hm⟩
    · rw [hm] at hr
      simp only [hm] at hf ⊢
      have hs' : (memWrite dst b s₁).fault = none := by rw [memWrite_fault b s₁ hd, (hr.ok b rfl).1, hs]
      obtain ⟨k, hk, h1, h2⟩ := ih (src + 1#16) (dst + 1#16) hs' hd' hf
      have e : copyBytes (k + 1) src dst s = copyBytes k (src + 1#16) (dst + 1#16) (memWrite dst b s₁) := by
        rw [copyBytes_succ src dst hd hs, hm]
      refine ⟨k + 1, by omega, ?_, ?_⟩
      · rw [e]; exact h1
      · rw [e, nth_succ]; exact h2

/-- Each byte of VRAM that a copy wrote without a fault holds what was read for it (R251, R256). -/
theorem copyBytes_written (n : Nat) : ∀ (src dst : Addr) {s : State}, s.VramWf → s.fault = none →
    dst.toNat + n ≤ 0xA800 → (copyBytes n src dst s).fault = none → ∀ j < n, inVram (nth dst j) = true →
    (memRead (nth src j) (copyBytes j src dst s)).1 = some (readVram s.vbk (nth dst j) (copyBytes n src dst s)) := by
  induction n with
  | zero => intro _ _ s _ _ _ _ j hj; omega
  | succ n ih =>
    intro src dst s hw hs h hf j hj hv
    obtain ⟨hd, hd'⟩ := copy_step_bound h
    have hr := memRead_spec src s
    rw [copyBytes_succ src dst hd hs] at hf ⊢
    rcases hm : memRead src s with ⟨_ | b, s₁⟩
    · rw [hm] at hr
      simp only [hm] at hf
      have := (hr.failed rfl).1
      rw [hf] at this; exact absurd this (by simp)
    · rw [hm] at hr
      simp only [hm] at hf ⊢
      have hw₁ : s₁.VramWf := by unfold State.VramWf; rw [hr.vram0, hr.vram1]; exact hw
      have hs' : (memWrite dst b s₁).fault = none := by rw [memWrite_fault b s₁ hd, (hr.ok b rfl).1, hs]
      have hb : (memWrite dst b s₁).vbk = s.vbk := (memWrite_frame b s₁ hd).vbk.trans hr.frame.vbk
      cases j with
      | zero =>
        rw [nth_zero] at hv
        have out := copyBytes_outside n (src + 1#16) (dst + 1#16) (memWrite_vramWf b hw₁ hd) hd' s.vbk dst hv
          (fun _ i hi => ne_nth_succ (by omega) hi)
        rw [nth_zero, nth_zero, out, memWrite_readVram b hw₁ hd s.vbk hv, if_pos ⟨hr.frame.vbk.symm, rfl⟩, copyBytes, hm]
      | succ j =>
        have := ih (src + 1#16) (dst + 1#16) (memWrite_vramWf b hw₁ hd) hs' hd' hf j (by omega) (by rwa [← nth_succ])
        rw [copyBytes_succ src dst hd hs, hm, nth_succ, nth_succ, ← hb]
        exact this

/-- A copy that meets no fault drives one output event per byte: TILE_DIRTY of the active bank in VRAM, else a write of
the SYS port (R81, R91). -/
theorem copyBytes_events (n : Nat) : ∀ (src dst : Addr) {s : State}, s.fault = none → dst.toNat + n ≤ 0xA800 →
    (copyBytes n src dst s).fault = none → ∃ es, (copyBytes n src dst s).events = es ++ s.events ∧ es.length = n ∧
      ∀ e ∈ es, ∃ j < n, (inVram (nth dst j) = true ∧ e = .tileDirty s.vbk (nth dst j)) ∨
        (inVram (nth dst j) = false ∧ ∃ x, e = .extWrite .sys (nth dst j) x) := by
  induction n with
  | zero => intro _ _ s _ _ _; exact ⟨[], rfl, rfl, fun _ h => nomatch h⟩
  | succ n ih =>
    intro src dst s hs h hf
    obtain ⟨hd, hd'⟩ := copy_step_bound h
    have hr := memRead_spec src s
    rw [copyBytes_succ src dst hd hs] at hf ⊢
    rcases hm : memRead src s with ⟨_ | b, s₁⟩
    · rw [hm] at hr
      simp only [hm] at hf
      have := (hr.failed rfl).1
      rw [hf] at this; exact absurd this (by simp)
    · rw [hm] at hr
      simp only [hm] at hf ⊢
      have hs' : (memWrite dst b s₁).fault = none := by rw [memWrite_fault b s₁ hd, (hr.ok b rfl).1, hs]
      have hb : (memWrite dst b s₁).vbk = s.vbk := (memWrite_frame b s₁ hd).vbk.trans hr.frame.vbk
      obtain ⟨es, h1, h2, h3⟩ := ih (src + 1#16) (dst + 1#16) hs' hd' hf
      have one : ∃ e, (memWrite dst b s₁).events = e :: s.events ∧
          ((inVram dst = true ∧ e = .tileDirty s.vbk dst) ∨ (inVram dst = false ∧ ∃ x, e = .extWrite .sys dst x)) := by
        rw [memWrite_low b s₁ hd, ← hr.events, ← hr.frame.vbk]
        split
        · rename_i hv; exact ⟨_, by simp [writeVram], Or.inl ⟨hv, rfl⟩⟩
        · rename_i hv; exact ⟨_, rfl, Or.inr ⟨by simpa using hv, b, rfl⟩⟩
      obtain ⟨e, he, hk⟩ := one
      refine ⟨es ++ [e], by rw [h1, he]; simp, by simp [h2], ?_⟩
      intro e' he'
      rw [List.mem_append, List.mem_singleton] at he'
      rcases he' with he' | rfl
      · obtain ⟨j, hj, h⟩ := h3 e' he'
        exact ⟨j + 1, by omega, by rw [nth_succ, ← hb]; exact h⟩
      · exact ⟨0, by omega, by rw [nth_zero]; exact hk⟩

/-- A copy that meets no fault is the whole copy. -/
theorem copyBytes_copied (n : Nat) : ∀ (src dst : Addr) {s : State}, s.VramWf → s.fault = none →
    dst.toNat + n ≤ 0xA800 → (copyBytes n src dst s).fault = none → Copied ⟨src, dst, n⟩ s (copyBytes n src dst s) := by
  induction n with
  | zero => intro _ _ s _ _ _ _; exact ⟨[], rfl, rfl, fun j hj => absurd hj (Nat.not_lt_zero j)⟩
  | succ n ih =>
    intro src dst s hw hs h hf
    obtain ⟨hd, hd'⟩ := copy_step_bound h
    have hr := memRead_spec src s
    have hc := copyBytes_succ (n := n) src dst hd hs
    rcases hm : memRead src s with ⟨_ | b, s₁⟩
    · rw [hm] at hr hc
      have := (hr.failed rfl).1
      rw [hc] at hf
      rw [hf] at this; exact absurd this (by simp)
    · rw [hm] at hr hc
      simp only at hc
      have hw₁ : s₁.VramWf := by unfold State.VramWf; rw [hr.vram0, hr.vram1]; exact hw
      have hs' : (memWrite dst b s₁).fault = none := by rw [memWrite_fault b s₁ hd, (hr.ok b rfl).1, hs]
      have hb : (memWrite dst b s₁).vbk = s.vbk := (memWrite_frame b s₁ hd).vbk.trans hr.frame.vbk
      have hw' := memWrite_vramWf b hw₁ hd
      rw [hc] at hf
      obtain ⟨es, h1, h2, h3⟩ := ih (src + 1#16) (dst + 1#16) hw' hs' hd' hf
      have he : (memWrite dst b s₁).events =
          (if inVram dst then Event.tileDirty s.vbk dst else .extWrite .sys dst b) :: s.events := by
        rw [memWrite_low b s₁ hd, ← hr.events, ← hr.frame.vbk]
        split <;> simp [writeVram, extWrite]
      refine ⟨es ++ [if inVram dst then .tileDirty s.vbk dst else .extWrite .sys dst b], by rw [hc, h1, he]; simp,
        by simp [h2], ?_⟩
      intro j hj
      rw [List.reverse_append, List.reverse_singleton, hc]
      cases j with
      | zero =>
        refine ⟨b, by simp only [copyRead, nth_zero, copyBytes, hm], fun hv => ?_, by simp⟩
        rw [nth_zero] at hv ⊢
        rw [copyBytes_outside n _ _ hw' hd' s.vbk dst hv (fun _ i hi => ne_nth_succ (by omega) hi),
          memWrite_readVram b hw₁ hd s.vbk hv, if_pos ⟨hr.frame.vbk.symm, rfl⟩]
      | succ j =>
        obtain ⟨x, x1, x2, x3⟩ := h3 j (Nat.lt_of_succ_lt_succ hj)
        refine ⟨x, ?_, ?_, ?_⟩
        · simp only [copyRead] at x1 ⊢
          rw [copyBytes_succ src dst hd hs, hm, nth_succ]; exact x1
        · rw [nth_succ, ← hb]; exact x2
        · rw [nth_succ, ← hb]; simpa using x3

/-- What leaves VRAM and the events alone leaves a copy done. -/
theorem Copied.congr {c : Transfer} {s t u : State} (h : Copied c s t) (hv : ∀ b, u.vram b = t.vram b)
    (he : u.events = t.events) : Copied c s u := by
  obtain ⟨es, h1, h2, h3⟩ := h
  refine ⟨es, by rw [he, h1], h2, fun j hj => ?_⟩
  obtain ⟨x, x1, x2, x3⟩ := h3 j hj
  exact ⟨x, x1, fun hx => by rw [readVram_congr hv]; exact x2 hx, x3⟩

/-- What follows a copy follows it only if no fault ended it (R303). -/
theorem afterCopy_done (rest : State → State) {s : State} (h : s.fault = none) : afterCopy rest s = rest s := by
  simp [afterCopy, h]

theorem afterCopy_stopped (rest : State → State) {s : State} (h : s.fault ≠ none) : afterCopy rest s = s := by
  unfold afterCopy
  rw [if_pos (Option.isSome_iff_ne_none.2 h)]

/-! ### The engine's addresses (R105, R251, R256) -/

theorem hdmaDst_bound (h3 h4 : Byte) : 0x8000 ≤ (hdmaDst h3 h4).toNat ∧ (hdmaDst h3 h4).toNat ≤ 0x9FF0 := by
  have hlow : h4 &&& 0xF0#8 = BitVec.ofNat 8 (16 * (h4.toNat / 16)) := by
    revert h4; decide
  have hhigh : h3 &&& 0x1F#8 = BitVec.ofNat 8 (h3.toNat % 32) := by
    revert h3; decide
  have hl := h4.isLt
  have hdst : (hdmaDst h3 h4).toNat = 0x8000 + (h3.toNat % 32) * 256 + 16 * (h4.toNat / 16) := by
    unfold hdmaDst
    rw [hlow, hhigh]
    generalize hx : h3.toNat % 32 = x
    generalize hy : h4.toNat / 16 = y
    have hx' : x < 32 := by omega
    have hy' : y < 16 := by omega
    interval_cases x <;> interval_cases y <;> rfl
  omega

theorem hdmaLen_bound (v : Byte) : 16 ≤ hdmaLen v ∧ hdmaLen v ≤ 2048 := by revert v; decide

/-- No byte of a general-purpose transfer goes above 0xA7EF (R82). -/
theorem generalPurpose_bound (h3 h4 v : Byte) : (hdmaDst h3 h4).toNat + hdmaLen v ≤ 0xA800 := by
  have := hdmaDst_bound h3 h4; have := hdmaLen_bound v; omega

/-- The masks of a chunk change nothing of a cursor that meets the invariant (R256). -/
theorem masked_src {c : Addr} (h : c &&& 0x000F#16 = 0#16) : c &&& 0xFFF0#16 = c := by
  have : c = (c &&& 0xFFF0#16) ||| (c &&& 0x000F#16) := by
    rw [← BitVec.and_or_distrib_left]
    exact (BitVec.and_allOnes (x := c)).symm
  rw [h, BitVec.or_zero] at this
  exact this.symm

theorem masked_dst {c : Addr} (h : c &&& 0x000F#16 = 0#16) (hw : 0x8000#16 ≤ c ∧ c ≤ 0x9FF0#16) :
    0x8000#16 ||| (c &&& 0x1FF0#16) = c := by
  have e : c &&& 0x1FF0#16 = c &&& 0x1FFF#16 := by
    rw [show (0x1FF0#16) = 0xFFF0#16 &&& 0x1FFF#16 from rfl, ← BitVec.and_assoc, masked_src h]
  rw [BitVec.le_def, BitVec.le_def] at hw
  simp only [BitVec.toNat_ofNat] at hw
  apply BitVec.eq_of_toNat_eq
  rw [e, BitVec.toNat_or, BitVec.toNat_and, show (0x1FFF#16).toNat = 2 ^ 13 - 1 from rfl, Nat.and_two_pow_sub_one_eq_mod,
    show (0x8000#16).toNat = 2 ^ 15 * 1 from rfl, ← Nat.two_pow_add_eq_or_of_lt (by omega)]
  omega

/-- The masked destination of a chunk lies in the window (R256). -/
theorem chunkDst_bound (c : Addr) : (0x8000#16 ||| (c &&& 0x1FF0#16)).toNat + 16 ≤ 0xA000 := by
  have h : (c &&& 0x1FF0#16).toNat ≤ 0x1FF0 := by
    rw [BitVec.toNat_and]; exact Nat.and_le_right
  have hlt : (c &&& 0x1FF0#16).toNat < 2 ^ 15 := by omega
  rw [BitVec.toNat_or, show (0x8000#16).toNat = 2 ^ 15 * 1 from rfl, ← Nat.two_pow_add_eq_or_of_lt hlt]
  omega

theorem chunk_bound (c : Addr) : (0x8000#16 ||| (c &&& 0x1FF0#16)).toNat + 16 ≤ 0xA800 := by
  have := chunkDst_bound c; omega

theorem generalPurpose_copy_frame (v : Byte) (s : State) :
    BusFrame s (copyBytes (hdmaLen v) (hdmaSrc s.hdma1 s.hdma2) (hdmaDst s.hdma3 s.hdma4) s) :=
  copyBytes_frame _ _ _ _ (generalPurpose_bound _ _ _)

theorem copyChunk_frame (s : State) : BusFrame s (copyChunk s) := copyBytes_frame _ _ _ _ (chunk_bound _)

end Sys2Proof.Machine
end

