-- ==== Sys2Proof/Laws/Decode.lean ====
section
/-! SUPPORT. The fields of a packed word, and which addresses the router's decode table sends where. -/

namespace Sys2Proof

variable (k : Kind) (sel : BitVec 1) (a : Addr) (d : Byte)

/-- A packed word as a number. -/
theorem OpWord.pack_toNat : (OpWord.pack k sel a d).toNat =
    k.code.toNat * 2 ^ 28 + sel.toNat * 2 ^ 24 + a.toNat * 2 ^ 8 + d.toNat := by
  have h1 := k.code.isLt
  have h2 := sel.isLt
  have h3 := a.isLt
  have h4 := d.isLt
  simp only [OpWord.pack, BitVec.toNat_append, BitVec.toNat_ofNat]
  rw [Nat.shiftLeft_eq, Nat.shiftLeft_eq, Nat.shiftLeft_eq, Nat.shiftLeft_eq]
  rw [Nat.mul_comm _ (2 ^ 3), ← Nat.two_pow_add_eq_or_of_lt (by omega), Nat.mul_comm _ (2 ^ 1),
    ← Nat.two_pow_add_eq_or_of_lt (by omega), Nat.mul_comm _ (2 ^ 16), ← Nat.two_pow_add_eq_or_of_lt (by omega),
    Nat.mul_comm _ (2 ^ 8), ← Nat.two_pow_add_eq_or_of_lt (by omega)]
  omega

@[simp] theorem OpWord.kind_pack : OpWord.kind (OpWord.pack k sel a d) = k.code := by
  apply BitVec.eq_of_toNat_eq
  have h2 := sel.isLt
  have h3 := a.isLt
  have h4 := d.isLt
  have h1 := k.code.isLt
  simp only [OpWord.kind, BitVec.extractLsb'_toNat, OpWord.pack_toNat, Nat.shiftRight_eq_div_pow]
  omega

@[simp] theorem OpWord.rsv_pack : OpWord.rsv (OpWord.pack k sel a d) = 0#3 := by
  apply BitVec.eq_of_toNat_eq
  have h2 := sel.isLt
  have h3 := a.isLt
  have h4 := d.isLt
  have h1 := k.code.isLt
  simp only [OpWord.rsv, BitVec.extractLsb'_toNat, OpWord.pack_toNat, Nat.shiftRight_eq_div_pow, BitVec.toNat_ofNat]
  omega

@[simp] theorem OpWord.sel_pack : OpWord.sel (OpWord.pack k sel a d) = sel := by
  apply BitVec.eq_of_toNat_eq
  have h2 := sel.isLt
  have h3 := a.isLt
  have h4 := d.isLt
  have h1 := k.code.isLt
  simp only [OpWord.sel, BitVec.extractLsb'_toNat, OpWord.pack_toNat, Nat.shiftRight_eq_div_pow]
  omega

@[simp] theorem OpWord.addr_pack : OpWord.addr (OpWord.pack k sel a d) = a := by
  apply BitVec.eq_of_toNat_eq
  have h2 := sel.isLt
  have h3 := a.isLt
  have h4 := d.isLt
  have h1 := k.code.isLt
  simp only [OpWord.addr, BitVec.extractLsb'_toNat, OpWord.pack_toNat, Nat.shiftRight_eq_div_pow]
  omega

@[simp] theorem OpWord.data_pack : OpWord.data (OpWord.pack k sel a d) = d := by
  apply BitVec.eq_of_toNat_eq
  have h2 := sel.isLt
  have h3 := a.isLt
  have h4 := d.isLt
  have h1 := k.code.isLt
  simp only [OpWord.data, BitVec.extractLsb'_toNat, OpWord.pack_toNat, Nat.shiftRight_eq_div_pow]
  omega

@[simp] theorem Kind.ofField_code : Kind.ofField k.code = some k := by cases k <;> rfl

/-- A packed word decodes to its KIND's operation, if the fields the KIND marks as 0 are 0. -/
theorem decode_pack (cgb : Bool) (hs : k.usesSel = false → sel = 0#1) (ha : k.usesAddr = false → a = 0#16)
    (hd : k.usesData = false → d = 0#8) : decode cgb (OpWord.pack k sel a d) = .ok (k.instr cgb sel a d) := by
  simp only [decode, OpWord.kind_pack, Kind.ofField_code, OpWord.rsv_pack, OpWord.sel_pack, OpWord.addr_pack,
    OpWord.data_pack]
  rw [if_neg (by simp), if_neg (by simpa using hs), if_neg (by simpa using ha), if_neg (by simpa using hd)]

theorem decode_rd (cgb : Bool) : decode cgb (OpWord.rd a) = .ok ((readHandler cgb a).instr a) :=
  decode_pack .rd 0#1 a 0#8 cgb (fun _ => rfl) (fun h => nomatch h) (fun _ => rfl)

theorem decode_wr (cgb : Bool) : decode cgb (OpWord.wr a d) = .ok ((writeHandler cgb a).instr a d) :=
  decode_pack .wr 0#1 a d cgb (fun _ => rfl) (fun h => nomatch h) (fun h => nomatch h)

/-! ### The decode table -/

theorem Addr.within_iff (lo hi : Addr) : Addr.within lo hi a = true ↔ lo.toNat ≤ a.toNat ∧ a.toNat ≤ hi.toNat := by
  simp [Addr.within, BitVec.le_def]

/-- An address outside page 0xFF is in no row. -/
theorem addressMap_find_none (cgb : Bool) (h : a.toNat < 0xFF00) : addressMap.find? (MapRow.covers cgb a) = none := by
  rw [List.find?_eq_none]
  intro r hr
  have hlo : ∀ r ∈ addressMap, 0xFF00 ≤ r.lo.toNat := by decide
  have := hlo r hr
  simp only [MapRow.covers, Bool.and_eq_true, Addr.within_iff]
  omega

/-- A statement about an address of page 0xFF is one about its low byte. -/
theorem Addr.page_ff {P : Addr → Prop} (h : 0xFF00 ≤ a.toNat) (hp : ∀ x : BitVec 8, P (0xFF#8 ++ x)) : P a := by
  have : a = 0xFF#8 ++ a.extractLsb' 0 8 := by
    apply BitVec.eq_of_toNat_eq
    have := a.isLt
    rw [BitVec.toNat_append, Nat.shiftLeft_eq, Nat.mul_comm, ← Nat.two_pow_add_eq_or_of_lt (BitVec.isLt _)]
    simp only [BitVec.extractLsb'_toNat, Nat.shiftRight_eq_div_pow, BitVec.toNat_ofNat]
    omega
  rw [this]; exact hp _

/-- The read rule of every address, as the ranges of R191 give it. -/
theorem readHandler_rows (cgb : Bool) :
    (Addr.isTimer a = true → readHandler cgb a = .timer) ∧ (Addr.isAudio a = true → readHandler cgb a = .audio) ∧
    ((Addr.isLcdControl a || Addr.isLcdPal a) = true → readHandler cgb a = .lcd) ∧
    (Addr.isNamed cgb a = false → readHandler cgb a = .generic) := by
  by_cases h : a.toNat < 0xFF00
  · refine ⟨?_, ?_, ?_, fun _ => by simp [readHandler, addressMap_find_none a cgb h]⟩
    · intro ht; simp [Addr.isTimer, Addr.within_iff] at ht; omega
    · intro ht; simp [Addr.isAudio, Addr.within_iff] at ht; omega
    · intro ht
      simp only [Addr.isLcdControl, Addr.isLcdPal, Bool.or_eq_true, beq_iff_eq] at ht
      rcases ht with ((((rfl | rfl) | rfl) | rfl) | rfl) | ((rfl | rfl) | rfl) <;> simp at h
  · apply Addr.page_ff a (by omega)
    revert cgb; decide

/-- The write rule of every address, as the ranges of R191 give it. -/
theorem writeHandler_rows (cgb : Bool) :
    (Addr.isTimer a = true → writeHandler cgb a = .timer) ∧ (Addr.isAudio a = true → writeHandler cgb a = .audio) ∧
    (Addr.isLcdControl a = true → writeHandler cgb a = .lcd) ∧ (Addr.isLcdPal a = true → writeHandler cgb a = .lcdPal) ∧
    (Addr.isNamed cgb a = false → writeHandler cgb a = .generic) := by
  by_cases h : a.toNat < 0xFF00
  · refine ⟨?_, ?_, ?_, ?_, fun _ => by simp [writeHandler, addressMap_find_none a cgb h]⟩
    · intro ht; simp [Addr.isTimer, Addr.within_iff] at ht; omega
    · intro ht; simp [Addr.isAudio, Addr.within_iff] at ht; omega
    · intro ht
      simp only [Addr.isLcdControl, Bool.or_eq_true, beq_iff_eq] at ht
      rcases ht with (((rfl | rfl) | rfl) | rfl) | rfl <;> simp at h
    · intro ht
      simp only [Addr.isLcdPal, Bool.or_eq_true, beq_iff_eq] at ht
      rcases ht with (rfl | rfl) | rfl <;> simp at h
  · apply Addr.page_ff a (by omega)
    revert cgb; decide

end Sys2Proof
end

