-- ==== Sys2Proof/Laws/PerInstr.lean ====
section
/-! SUPPORT. The family EncodedFields: the word of every instruction names a KIND, has RSV = 0, and has 0 in every field
its KIND marks as 0 (spec/30_encoding.md R100, R101, R109): it spells an operation. -/

namespace Sys2Proof.Laws.EncodedFields

/-- The word of `i` meets R101 and is none of the words of R109. -/
def Statement (i : Instr) : Prop :=
  OpWord.rsv (encode i) = 0#3 ∧ ∃ k, Kind.ofField (OpWord.kind (encode i)) = some k ∧
    (k.usesSel = false → OpWord.sel (encode i) = 0#1) ∧ (k.usesAddr = false → OpWord.addr (encode i) = 0#16) ∧
    (k.usesData = false → OpWord.data (encode i) = 0#8)

theorem of_pack {i : Instr} (k : Kind) (sel : BitVec 1) (a : Addr) (d : Byte) (h : encode i = OpWord.pack k sel a d)
    (hs : k.usesSel = false → sel = 0#1) (ha : k.usesAddr = false → a = 0#16) (hd : k.usesData = false → d = 0#8) :
    Statement i := by
  refine ⟨by simp [h], k, by simp [h], ?_⟩
  simpa [h] using ⟨hs, ha, hd⟩

theorem of_rd {i : Instr} (a : Addr) (h : encode i = OpWord.rd a) : Statement i :=
  of_pack .rd 0#1 a 0#8 h (fun _ => rfl) (fun h => nomatch h) (fun _ => rfl)

theorem of_wr {i : Instr} (a : Addr) (v : Byte) (h : encode i = OpWord.wr a v) : Statement i :=
  of_pack .wr 0#1 a v h (fun _ => rfl) (fun h => nomatch h) (fun h => nomatch h)

theorem rdTimer (a : Addr) : Statement (.rdTimer a) := of_rd _ rfl

theorem wrTimer (a : Addr) (v : Byte) : Statement (.wrTimer a v) := of_wr _ _ rfl

theorem rdAudio (a : Addr) : Statement (.rdAudio a) := of_rd _ rfl

theorem wrAudio (a : Addr) (v : Byte) : Statement (.wrAudio a v) := of_wr _ _ rfl

theorem rdLcd (a : Addr) : Statement (.rdLcd a) := of_rd _ rfl

theorem wrLcd (a : Addr) (v : Byte) : Statement (.wrLcd a v) := of_wr _ _ rfl

theorem wrLcdpal (a : Addr) (v : Byte) : Statement (.wrLcdpal a v) := of_wr _ _ rfl

theorem wrOamdma (v : Byte) : Statement (.wrOamdma v) := of_wr _ _ rfl

theorem rdOamdma : Statement .rdOamdma := of_rd _ rfl

theorem rdKey1 : Statement .rdKey1 := of_rd _ rfl

theorem wrKey1 (v : Byte) : Statement (.wrKey1 v) := of_wr _ _ rfl

theorem rdVbk : Statement .rdVbk := of_rd _ rfl

theorem wrVbk (v : Byte) : Statement (.wrVbk v) := of_wr _ _ rfl

theorem wrBoot (v : Byte) : Statement (.wrBoot v) := of_wr _ _ rfl

theorem rdBoot : Statement .rdBoot := of_rd _ rfl

theorem wrHdma1 (v : Byte) : Statement (.wrHdma1 v) := of_wr _ _ rfl

theorem wrHdma2 (v : Byte) : Statement (.wrHdma2 v) := of_wr _ _ rfl

theorem wrHdma3 (v : Byte) : Statement (.wrHdma3 v) := of_wr _ _ rfl

theorem wrHdma4 (v : Byte) : Statement (.wrHdma4 v) := of_wr _ _ rfl

theorem rdHdma1 : Statement .rdHdma1 := of_rd _ rfl

theorem rdHdma2 : Statement .rdHdma2 := of_rd _ rfl

theorem rdHdma3 : Statement .rdHdma3 := of_rd _ rfl

theorem rdHdma4 : Statement .rdHdma4 := of_rd _ rfl

theorem rdHdma5 : Statement .rdHdma5 := of_rd _ rfl

theorem wrHdma5 (v : Byte) : Statement (.wrHdma5 v) := of_wr _ _ rfl

theorem wrBcps (v : Byte) : Statement (.wrBcps v) := of_wr _ _ rfl

theorem rdBcps : Statement .rdBcps := of_rd _ rfl

theorem wrOcps (v : Byte) : Statement (.wrOcps v) := of_wr _ _ rfl

theorem rdOcps : Statement .rdOcps := of_rd _ rfl

theorem wrBcpd (v : Byte) : Statement (.wrBcpd v) := of_wr _ _ rfl

theorem rdBcpd : Statement .rdBcpd := of_rd _ rfl

theorem wrOcpd (v : Byte) : Statement (.wrOcpd v) := of_wr _ _ rfl

theorem rdOcpd : Statement .rdOcpd := of_rd _ rfl

theorem rdWrambank : Statement .rdWrambank := of_rd _ rfl

theorem wrWrambank (v : Byte) : Statement (.wrWrambank v) := of_wr _ _ rfl

theorem rdGeneric (a : Addr) : Statement (.rdGeneric a) := of_rd _ rfl

theorem wrGeneric (a : Addr) (v : Byte) : Statement (.wrGeneric a v) := of_wr _ _ rfl

theorem vrd (a : Addr) : Statement (.vrd a) := of_pack .vrd 0#1 a 0#8 rfl (fun _ => rfl) (fun h => nomatch h) (fun _ => rfl)

theorem vwr (a : Addr) (v : Byte) : Statement (.vwr a v) := of_pack .vwr 0#1 a v rfl (fun _ => rfl) (fun h => nomatch h) (fun h => nomatch h)

theorem tick : Statement .tick := of_pack .tick 0#1 0#16 0#8 rfl (fun _ => rfl) (fun _ => rfl) (fun _ => rfl)

theorem commit : Statement .commit := of_pack .commit 0#1 0#16 0#8 rfl (fun _ => rfl) (fun _ => rfl) (fun _ => rfl)

theorem resolveBg (p c : BitVec 4) : Statement (.resolveBg p c) := of_pack .resolve 0#1 0#16 (p ++ c) rfl (fun h => nomatch h) (fun _ => rfl) (fun h => nomatch h)

theorem resolveObj (p c : BitVec 4) : Statement (.resolveObj p c) := of_pack .resolve 1#1 0#16 (p ++ c) rfl (fun h => nomatch h) (fun _ => rfl) (fun h => nomatch h)

theorem vrdb (b : Bank) (a : Addr) : Statement (.vrdb b a) := of_pack .vrdb b a 0#8 rfl (fun h => nomatch h) (fun h => nomatch h) (fun _ => rfl)

theorem reset : Statement .reset := of_pack .reset 0#1 0#16 0#8 rfl (fun _ => rfl) (fun _ => rfl) (fun _ => rfl)

end Sys2Proof.Laws.EncodedFields
end

