-- ==== Sys2Proof/Laws/Step.lean ====
section
/-! SUPPORT. What one step can do, said once, and the one form every meaning has. -/

namespace Sys2Proof.Machine

/-- The effect of a bus read: the access, then its byte as the result. -/
def readEffect (access : State → Fetched) (s : State) : State := (access s).2.setResult ((access s).1.map .byte)

/-- The effect of each instruction while no fault is set (`exec_eq` says that it is `exec`'s). -/
def effect : Instr → State → State
  | .rdTimer a => readEffect (extRead .timer a)
  | .wrTimer a v => extWrite .timer a v
  | .rdAudio a => readEffect (readAudio a)
  | .wrAudio a v => writeAudio a v
  | .rdLcd a => readEffect (extRead .lcd a)
  | .wrLcd a v => extWrite .lcd a v
  | .wrLcdpal a v => writeLcdPal a v
  | .wrOamdma v => extWrite .oamDma 0xFF46#16 v
  | .rdOamdma => readEffect (storeRead 0xFF46#16)
  | .rdKey1 => readEffect (fun s => ownByte s.key1 s)
  | .wrKey1 v => State.setKey1 v
  | .rdVbk => readEffect (fun s => ownByte (vbkByte s) s)
  | .wrVbk v => writeVbk v
  | .wrBoot v => writeBoot v
  | .rdBoot => readEffect (storeRead 0xFF50#16)
  | .wrHdma1 v => State.setHdma1 v
  | .wrHdma2 v => State.setHdma2 v
  | .wrHdma3 v => State.setHdma3 v
  | .wrHdma4 v => State.setHdma4 v
  | .rdHdma1 => readEffect (writeOnlyRead 0xFF51#16)
  | .rdHdma2 => readEffect (writeOnlyRead 0xFF52#16)
  | .rdHdma3 => readEffect (writeOnlyRead 0xFF53#16)
  | .rdHdma4 => readEffect (writeOnlyRead 0xFF54#16)
  | .rdHdma5 => readEffect (fun s => ownByte s.hdma5 s)
  | .wrHdma5 v => writeHdma5 v
  | .wrBcps v => State.setPalIndex .bg v
  | .rdBcps => readEffect (fun s => ownByte (indexByte .bg s) s)
  | .wrOcps v => State.setPalIndex .obj v
  | .rdOcps => readEffect (fun s => ownByte (indexByte .obj s) s)
  | .wrBcpd v => writeColour .bg v
  | .rdBcpd => readEffect (fun s => ownByte (colourByte .bg s) s)
  | .wrOcpd v => writeColour .obj v
  | .rdOcpd => readEffect (fun s => ownByte (colourByte .obj s) s)
  | .rdWrambank => readEffect (extRead .wramBank 0xFF70#16)
  | .wrWrambank v => extWrite .wramBank 0xFF70#16 v
  | .rdGeneric a => readEffect (storeRead a)
  | .wrGeneric a v => storeWrite a v
  | .vrd a => (fun s => vramPortRead s.vbk a s)
  | .vwr a v => vramPortWrite a v
  | .tick => hblankTick
  | .commit => commitSwitch
  | .resolveBg p c => resolveColour .bg p c
  | .resolveObj p c => resolveColour .obj p c
  | .vrdb b a => vramPortRead b a
  | .reset => resetBlock

/-- Every meaning is an operation in the frame of R301. -/
theorem exec_eq (i : Instr) (s : State) : exec i s = operation (effect i) s := by cases i <;> rfl

/-- Every instruction answers a next state: with no effect while a fault is set, else with its effect. -/
theorem exec_cases {i : Instr} {s t : State} (h : exec i s = .next t) :
    (s.fault.isSome = true ∧ t = s.setResult none) ∨ (s.fault = none ∧ t = effect i (s.setResult none)) := by
  rw [exec_eq] at h
  rcases hf : s.fault with _ | f
  · rw [operation_running _ hf] at h; right; exact ⟨rfl, by cases h; rfl⟩
  · rw [operation_faulted _ (by simp [hf])] at h; left; exact ⟨rfl, by cases h; rfl⟩

/-- Every instruction answers a next state. -/
theorem exec_next (i : Instr) (s : State) : ∃ t, exec i s = .next t := ⟨_, exec_eq i s⟩

@[simp] theorem countDown_fault (s : State) : (countDown s).fault = s.fault := by unfold countDown; split <;> rfl

@[simp] theorem countDown_events (s : State) : (countDown s).events = s.events := by unfold countDown; split <;> rfl

@[simp] theorem countDown_vram (s : State) (b : Bank) : (countDown s).vram b = s.vram b := by
  unfold countDown; split <;> rfl

@[simp] theorem setHdmaDone_fault (s : State) : (setHdmaDone s).fault = s.fault := rfl

@[simp] theorem setHdmaDone_events (s : State) : (setHdmaDone s).events = s.events := rfl

@[simp] theorem setHdmaDone_vram (s : State) (b : Bank) : (setHdmaDone s).vram b = s.vram b := rfl

@[simp] theorem advanceCursors_vram (s : State) (b : Bank) : (advanceCursors s).vram b = s.vram b := rfl

@[simp] theorem advanceCursors_events (s : State) : (advanceCursors s).events = s.events := rfl

@[simp] theorem mirrorCursors_vram (s : State) (b : Bank) : (mirrorCursors s).vram b = s.vram b := rfl

@[simp] theorem mirrorCursors_events (s : State) : (mirrorCursors s).events = s.events := rfl

/-- A tick while Active: the chunk, and then the registers' step unless a fault ended it. -/
theorem hblankTick_active {s : State} (h : s.transferActive = true) :
    hblankTick s = afterCopy (fun s => countDown (mirrorCursors (advanceCursors s))) (copyChunk s) := by
  simp [hblankTick, h]

/-- What TICK and WR HDMA5 do in a state without a fault: no copy, no fault and no output event, or the copy `copyOf`
names, within 0x8000..0xA7FF, with a fault of the copy ending them there. -/
theorem copying_cases {i : Instr} {s : State} (hm : mayCopy i) (hf : s.fault = none) :
    (copyOf i s = none ∧ (effect i s).fault = none ∧ (effect i s).events = s.events) ∨
    ∃ c, copyOf i s = some c ∧ 0x8000 ≤ c.dst.toNat ∧ c.dst.toNat + c.len ≤ 0xA800 ∧
      (i = .tick → c.dst.toNat + c.len ≤ 0xA000) ∧
      (((copyBytes c.len c.src c.dst s).fault ≠ none ∧ effect i s = copyBytes c.len c.src c.dst s) ∨
       ((copyBytes c.len c.src c.dst s).fault = none ∧ (effect i s).fault = none ∧
         (effect i s).events = (copyBytes c.len c.src c.dst s).events)) := by
  rcases hm with rfl | ⟨v, rfl⟩
  · simp only [effect, copyOf]
    rcases ha : s.transferActive with _ | _
    · left; simp [hblankTick, ha, hf]
    · right
      refine ⟨_, rfl, ?_, chunk_bound _, fun _ => chunkDst_bound _, ?_⟩
      · rw [BitVec.toNat_or]; exact Nat.left_le_or
      · rw [hblankTick_active ha]
        show ((copyChunk s).fault ≠ none ∧ _ = copyChunk s) ∨ ((copyChunk s).fault = none ∧ _ ∧ _ = (copyChunk s).events)
        by_cases hc : (copyChunk s).fault = none
        · right
          rw [afterCopy_done _ hc]
          exact ⟨hc, by simp [mirrorCursors, advanceCursors, hc], by simp [mirrorCursors, advanceCursors]⟩
        · left; exact ⟨hc, afterCopy_stopped _ hc⟩
  · simp only [effect, copyOf, writeHdma5]
    rcases ha : s.transferActive with _ | _ <;> rcases hv : hdmaMode v with _ | _
    · right
      refine ⟨_, rfl, (hdmaDst_bound _ _).1, generalPurpose_bound _ _ _, nofun, ?_⟩
      simp only [Bool.false_eq_true, if_false, generalPurpose]
      by_cases hc : (copyBytes (hdmaLen v) (hdmaSrc s.hdma1 s.hdma2) (hdmaDst s.hdma3 s.hdma4) s).fault = none
      · right
        rw [afterCopy_done _ hc]
        exact ⟨hc, by rw [setHdmaDone_fault, hc], by rw [setHdmaDone_events]⟩
      · left; exact ⟨hc, afterCopy_stopped _ hc⟩
    all_goals left; simp [startPaced, terminate, updateCount, hf]

/-- A step that answers a next state refused the word it was presented, or performed the operation it spells. -/
theorem step_cases {s t : State} (h : step s = .next t) :
    ∃ w rest, s.pending = w :: rest ∧
      ((∃ e, decode s.params.cgbMode w = .error e ∧ t = refuseWord w (s.setPending rest)) ∨
       (∃ i, decode s.params.cgbMode w = .ok i ∧ exec i (s.setPending rest) = .next t)) := by
  unfold step fetch at h
  rcases hp : s.pending with _ | ⟨w, rest⟩
  · simp [hp] at h
  · simp only [hp] at h
    refine ⟨w, rest, rfl, ?_⟩
    rcases hd : decode s.params.cgbMode w with e | i
    · simp only [State.setPending_params, hd] at h
      left
      exact ⟨e, rfl, by cases h; rfl⟩
    · simp only [State.setPending_params, hd] at h
      right
      exact ⟨i, rfl, h⟩

/-- A step stops only where the driver presents nothing (log 2). -/
theorem step_next {s : State} (h : s.pending ≠ []) : ∃ t, step s = .next t := by
  unfold step fetch
  rcases hp : s.pending with _ | ⟨w, rest⟩
  · exact absurd hp h
  · simp only
    split
    · exact ⟨_, rfl⟩
    · exact exec_next _ _

end Sys2Proof.Machine
end

