-- ==== Sys2Proof/Tests/Slice0.lean ====
section
/-! SUPPORT. Tests. Expected results are from spec/95_test_vectors.md (its items are named) or worked out by hand from the
rules; the words are written out from the rules' encodings. `test_witness_X` shows states and operands that meet all
hypotheses of `Obligations.X`. -/

namespace Sys2Proof.Tests

open Sys2Proof Sys2Proof.Machine

/-! ### Well-formedness: an ill-formed term for each check -/

theorem test_wf_timer : WellFormed true (.rdTimer 0xFF08#16) = false ∧ WellFormed true (.wrTimer 0xFF03#16 0#8) = false ∧
    WellFormed false (.rdTimer 0xFF04#16) = true ∧ WellFormed false (.wrTimer 0xFF07#16 0#8) = true := by decide

theorem test_wf_audio : WellFormed true (.rdAudio 0xFF0F#16) = false ∧ WellFormed true (.wrAudio 0xFF40#16 0#8) = false ∧
    WellFormed true (.rdAudio 0xFF10#16) = true ∧ WellFormed true (.wrAudio 0xFF3F#16 0#8) = true := by decide

theorem test_wf_lcd : WellFormed true (.rdLcd 0xFF41#16) = false ∧ WellFormed true (.wrLcd 0xFF47#16 0#8) = false ∧
    WellFormed true (.wrLcdpal 0xFF4A#16 0#8) = false ∧ WellFormed true (.rdLcd 0xFF49#16) = true := by decide

theorem test_wf_colour_mode : WellFormed false .rdKey1 = false ∧ WellFormed false (.wrKey1 0#8) = false ∧
    WellFormed false .rdVbk = false ∧ WellFormed false (.wrVbk 0#8) = false ∧
    WellFormed false (.wrHdma1 0#8) = false ∧ WellFormed false (.wrHdma2 0#8) = false ∧
    WellFormed false (.wrHdma3 0#8) = false ∧ WellFormed false (.wrHdma4 0#8) = false ∧
    WellFormed false .rdHdma1 = false ∧ WellFormed false .rdHdma2 = false ∧ WellFormed false .rdHdma3 = false ∧
    WellFormed false .rdHdma4 = false ∧ WellFormed false .rdHdma5 = false ∧ WellFormed false (.wrHdma5 0#8) = false ∧
    WellFormed false (.wrBcps 0#8) = false ∧ WellFormed false .rdBcps = false ∧ WellFormed false (.wrOcps 0#8) = false ∧
    WellFormed false .rdOcps = false ∧ WellFormed false (.wrBcpd 0#8) = false ∧ WellFormed false .rdBcpd = false ∧
    WellFormed false (.wrOcpd 0#8) = false ∧ WellFormed false .rdOcpd = false := by decide

theorem test_wf_generic : WellFormed true (.rdGeneric 0xFF55#16) = false ∧ WellFormed false (.rdGeneric 0xFF55#16) = true ∧
    WellFormed true (.wrGeneric 0xFF46#16 0#8) = false ∧ WellFormed true (.wrGeneric 0x1234#16 0#8) = true := by decide

/-! ### Decoding: every constructor from a word of the spec -/

theorem test_decode_forwarded :
    decode true 0x00FF0400#32 = .ok (.rdTimer 0xFF04#16) ∧ decode false 0x10FF0780#32 = .ok (.wrTimer 0xFF07#16 0x80#8) ∧
    decode true 0x00FF1000#32 = .ok (.rdAudio 0xFF10#16) ∧ decode false 0x10FF3FF3#32 = .ok (.wrAudio 0xFF3F#16 0xF3#8) ∧
    decode true 0x00FF4700#32 = .ok (.rdLcd 0xFF47#16) ∧ decode true 0x10FF4091#32 = .ok (.wrLcd 0xFF40#16 0x91#8) ∧
    decode true 0x10FF49D2#32 = .ok (.wrLcdpal 0xFF49#16 0xD2#8) ∧ decode true 0x10FF46C1#32 = .ok (.wrOamdma 0xC1#8) ∧
    decode true 0x00FF4600#32 = .ok .rdOamdma ∧ decode true 0x10FF5001#32 = .ok (.wrBoot 0x01#8) ∧
    decode true 0x00FF5000#32 = .ok .rdBoot ∧ decode true 0x00FF7000#32 = .ok .rdWrambank ∧
    decode true 0x10FF7002#32 = .ok (.wrWrambank 0x02#8) ∧ decode true 0x00FF4100#32 = .ok (.rdGeneric 0xFF41#16) ∧
    decode true 0x1012349A#32 = .ok (.wrGeneric 0x1234#16 0x9A#8) := by decide

theorem test_decode_bank :
    decode true 0x00FF4F00#32 = .ok .rdVbk ∧ decode true 0x10FF4FFE#32 = .ok (.wrVbk 0xFE#8) ∧
    decode true 0x209FFF00#32 = .ok (.vrd 0x9FFF#16) ∧ decode true 0x308000AA#32 = .ok (.vwr 0x8000#16 0xAA#8) ∧
    decode false 0x70800000#32 = .ok (.vrdb 0#1 0x8000#16) ∧ decode true 0x71A00000#32 = .ok (.vrdb 1#1 0xA000#16) := by
  decide

theorem test_decode_palette :
    decode true 0x10FF6887#32 = .ok (.wrBcps 0x87#8) ∧ decode true 0x00FF6800#32 = .ok .rdBcps ∧
    decode true 0x10FF6A80#32 = .ok (.wrOcps 0x80#8) ∧ decode true 0x00FF6A00#32 = .ok .rdOcps ∧
    decode true 0x10FF691F#32 = .ok (.wrBcpd 0x1F#8) ∧ decode true 0x00FF6900#32 = .ok .rdBcpd ∧
    decode true 0x10FF6B12#32 = .ok (.wrOcpd 0x12#8) ∧ decode true 0x00FF6B00#32 = .ok .rdOcpd ∧
    decode true 0x60000012#32 = .ok (.resolveBg 1#4 2#4) ∧ decode false 0x610000FF#32 = .ok (.resolveObj 15#4 15#4) := by
  decide

theorem test_decode_dma :
    decode true 0x10FF5110#32 = .ok (.wrHdma1 0x10#8) ∧ decode true 0x10FF523C#32 = .ok (.wrHdma2 0x3C#8) ∧
    decode true 0x10FF5302#32 = .ok (.wrHdma3 0x02#8) ∧ decode true 0x10FF54FF#32 = .ok (.wrHdma4 0xFF#8) ∧
    decode true 0x00FF5100#32 = .ok .rdHdma1 ∧ decode true 0x00FF5200#32 = .ok .rdHdma2 ∧
    decode true 0x00FF5300#32 = .ok .rdHdma3 ∧ decode true 0x00FF5400#32 = .ok .rdHdma4 ∧
    decode true 0x00FF5500#32 = .ok .rdHdma5 ∧ decode true 0x10FF5581#32 = .ok (.wrHdma5 0x81#8) ∧
    decode true 0x40000000#32 = .ok .tick := by decide

theorem test_decode_speed_and_reset :
    decode true 0x00FF4D00#32 = .ok .rdKey1 ∧ decode true 0x10FF4D01#32 = .ok (.wrKey1 0x01#8) ∧
    decode false 0x50000000#32 = .ok .commit ∧ decode true 0x80000000#32 = .ok .reset := by decide

/-- V60-2, and R101: each marked-0 field. -/
theorem test_decode_refused :
    decode true 0x90000000#32 = .error .reservedKind ∧ decode true 0x00FF5501#32 = .error .nonzeroData ∧
    decode true 0x02FF4F00#32 = .error .reservedBits ∧ decode true 0x41000000#32 = .error .nonzeroSel ∧
    decode true 0x60FF0000#32 = .error .nonzeroAddr ∧ decode true 0x71800001#32 = .error .nonzeroData ∧
    decode true 0xF0000000#32 = .error .reservedKind := by decide

/-- R192, V44-10, V46-4: colour-mode-only words in monochrome mode. -/
theorem test_decode_mono :
    decode false 0x00FF5100#32 = .ok (.rdGeneric 0xFF51#16) ∧ decode false 0x10FF5500#32 = .ok (.wrGeneric 0xFF55#16 0x00#8) ∧
    decode false 0x10FF4D01#32 = .ok (.wrGeneric 0xFF4D#16 0x01#8) ∧
    decode false 0x00FF6B00#32 = .ok (.rdGeneric 0xFF6B#16) := by decide

/-- The words as the host numbers them. -/
theorem test_decode_table_word :
    decodeTableWord 32 0x10FF5581 = some (.wrHdma5 0x81#8) ∧ decodeTableWord 32 0x90000000 = none := by decide

/-! ### Small states -/

/-- Idle, with sixteen answers 0x30..0x3F waiting (E5a's source bytes). -/
def idle : State :=
  { State.reset with
    replies := [⟨0x30#8, false⟩, ⟨0x31#8, false⟩, ⟨0x32#8, false⟩, ⟨0x33#8, false⟩, ⟨0x34#8, false⟩, ⟨0x35#8, false⟩,
      ⟨0x36#8, false⟩, ⟨0x37#8, false⟩, ⟨0x38#8, false⟩, ⟨0x39#8, false⟩, ⟨0x3A#8, false⟩, ⟨0x3B#8, false⟩,
      ⟨0x3C#8, false⟩, ⟨0x3D#8, false⟩, ⟨0x3E#8, false⟩, ⟨0x3F#8, false⟩] }

/-- The halves of E5a. -/
def loaded : State := { idle with hdma1 := 0x10#8, hdma2 := 0x00#8, hdma3 := 0x02#8, hdma4 := 0x00#8 }

/-- E6a after WR HDMA5, 81. -/
def active : State := { loaded with transferActive := true, hdma5 := 0x01#8, curSrc := 0x1000#16, curDst := 0x8200#16 }

/-- Monochrome mode. -/
def mono : State := { idle with params := { Config.params with cgbMode := false } }

/-- A faulted block. -/
def faulted : State := { idle with fault := some (.hdmaWoRead 0xFF51#16) }

/-- A store that fails its next access. -/
def failing : State := { State.reset with replies := [⟨0x00#8, true⟩] }

/-- The source of a copy covers 0xFF51 (V45-11). -/
def overHalves : State := { idle with hdma1 := 0xFF#8, hdma2 := 0x50#8, hdma3 := 0x00#8, hdma4 := 0x00#8 }

/-- What a step's answer says of the next state. -/
def after {α : Type} (f : State → α) (o : Host.Outcome State Fault Refusal) : Option α :=
  match o with
  | .next t => some (f t)
  | .fault _ => none
  | .refused _ => none

theorem idle_inv : idle.Inv := by constructor <;> decide

theorem loaded_inv : loaded.Inv := by constructor <;> decide

theorem active_inv : active.Inv := by constructor <;> decide

theorem overHalves_inv : overHalves.Inv := by constructor <;> decide

theorem mono_inv : mono.Inv := by constructor <;> decide

/-! ### Single steps against spec/95_test_vectors.md -/

/-- A run's first operation, from reset: E1a. -/
theorem test_step_first_operation : after State.bcps (step (State.reset.withFetchWord 32 0x10FF682B)) = some 0x2B#8 := by
  decide

/-- V60-2: the refusal is recorded and the run goes on. -/
theorem test_step_refused : after (fun t => (t.refusals, t.fault)) (step (State.reset.withFetchWord 32 0x90000000)) =
    some ([0x90000000#32], none) := by decide

/-- D37: nothing presented. -/
theorem test_step_end_of_run : step State.reset = .fault .endOfRun := rfl

/-- E2a. -/
theorem test_bcpd_wraps : after (fun t => (t.bcps, t.bgpal[31], t.events))
    (exec (.wrBcpd 0x00#8) { idle with bcps := 0xFF#8 }) = some (0x80#8, 0x00FF#16, [.cacheClear]) := by decide

/-- R172's example. -/
theorem test_ocpd_high_byte : after (fun t => (t.ocps, t.objpal[31], t.bgpal[31]))
    (exec (.wrOcpd 0x12#8) { idle with ocps := 0x3F#8 }) = some (0x3F#8, 0x12FF#16, 0xFFFF#16) := by decide

/-- V42-2. -/
theorem test_bcpd_bit_six_carry : after State.bcps (exec (.wrBcpd 0x00#8) { idle with bcps := 0xBF#8 }) = some 0xC0#8 := by
  decide

/-- R171's example. -/
theorem test_bcpd_read_low_byte : after State.result
    (exec .rdBcpd { idle with bcps := 0x07#8, bgpal := idle.bgpal.set 3 0x7C1F#16 }) = some (some (.byte 0x1F#8)) := by
  decide

/-- R173's example. -/
theorem test_ocpd_read_low_byte : after State.result
    (exec .rdOcpd { idle with ocps := 0x3F#8, objpal := idle.objpal.set 31 0x12FF#16 }) = some (some (.byte 0xFF#8)) := by
  decide

/-- E3a, V43-3, V43-4. -/
theorem test_expand : expand15to24 0x001F#15 = 0xF80000#24 ∧ expand15to24 0x7C00#15 = 0x0000F8#24 ∧
    expand15to24 0x03E0#15 = 0x00F800#24 ∧ expand15to24 0x7FFF#15 = 0xF8F8F8#24 ∧ expand15to24 0#15 = 0#24 := by decide

/-- V43-5. -/
theorem test_resolve_bg : after State.result
    (exec (.resolveBg 7#4 3#4) { idle with bgpal := idle.bgpal.set 31 0x5294#16 }) = some (some (.colour 0xA0A0A0#24)) := by
  decide

/-- V43-6. -/
theorem test_resolve_obj : after State.result (exec (.resolveObj 7#4 3#4) idle) = some (some (.colour 0xF8F8F8#24)) := by
  decide

/-- V41-3. -/
theorem test_vwr_bank : after (fun t => (readVram 0#1 0x8000#16 t, readVram 1#1 0x8000#16 t, t.events))
    (exec (.vwr 0x8000#16 0xAA#8) { idle with vbk := 1#1 }) = some (0x00#8, 0xAA#8, [.tileDirty 1#1 0x8000#16]) := by decide

/-- V41-4, V41-5. -/
theorem test_vram_range : after State.fault (exec (.vrd 0xA000#16) idle) = some (some (.vramRange 0xA000#16)) ∧
    after State.fault (exec (.vwr 0x7FFF#16 0x01#8) idle) = some (some (.vramRange 0x7FFF#16)) := by decide

/-- E5a. -/
theorem test_general_purpose : after (fun t => (readVram 0#1 0x8200#16 t, readVram 0#1 0x820F#16 t, t.hdma1, t.hdma5))
    (exec (.wrHdma5 0x00#8) loaded) = some (0x30#8, 0x3F#8, 0xFF#8, 0xFF#8) := by decide

/-- E6a, its first tick. -/
theorem test_tick : after (fun t => (readVram 0#1 0x820F#16 t, t.hdma2, t.hdma3, t.hdma4, t.hdma5, t.transferActive))
    (exec .tick active) = some (0x3F#8, 0x10#8, 0x82#8, 0x10#8, 0x00#8, true) := by decide

/-- V45-5, V45-6, P3: the cursors' wraps. -/
theorem test_cursor_wraps : nextSrc 0x7FF0#16 = 0xA000#16 ∧ nextSrc 0xFFF0#16 = 0x0000#16 ∧
    nextDst 0x9FF0#16 = 0x8000#16 ∧ nextSrc 0x8000#16 = 0x8010#16 := by decide

/-- A tick whose source is VRAM, with V45-3's bytes 11 22. -/
theorem test_tick_from_vram : after (fun t => (readVram 0#1 0x8010#16 t, readVram 0#1 0x8011#16 t, t.events.length, t.draws))
    (exec .tick { active with curSrc := 0x8000#16, curDst := 0x8010#16, vram0 := [(0, 0x11#8), (1, 0x22#8)] }) =
    some (0x11#8, 0x22#8, 16, 0) := by decide

/-- V45-1. -/
theorem test_start_paced : after (fun t => (t.curSrc, t.curDst, t.hdma5, t.transferActive))
    (exec (.wrHdma5 0x80#8) { idle with hdma1 := 0x12#8, hdma2 := 0x3F#8, hdma3 := 0xE5#8, hdma4 := 0x6F#8 }) =
    some (0x1230#16, 0x8560#16, 0x00#8, true) := by decide

/-- E7a. -/
theorem test_terminate : after (fun t => (t.hdma5, t.transferActive))
    (exec (.wrHdma5 0x00#8) { active with hdma5 := 0x05#8 }) = some (0x85#8, false) := by decide

/-- V45-11. -/
theorem test_copy_faults : after (fun t => (t.fault, readVram 0#1 0x8000#16 t, t.hdma1, t.hdma5))
    (exec (.wrHdma5 0x00#8) { overHalves with replies := [⟨0x03#8, false⟩] }) =
    some (some (.hdmaWoRead 0xFF51#16), 0x03#8, 0xFF#8, 0xFF#8) := by decide

/-- V46-2. -/
theorem test_commit : after (fun t => (t.key1, t.doubleSpeed)) (exec .commit { idle with key1 := 0x7F#8 }) =
    some (0xFE#8, true) := by decide

/-- V44-7. -/
theorem test_boot : after (fun t => (t.bootRomMapped, t.events)) (exec (.wrBoot 0x03#8) idle) =
      some (true, [.extWrite .store 0xFF50#16 0x03#8]) ∧
    after (fun t => (t.bootRomMapped, t.events)) (exec (.wrBoot 0x01#8) idle) = some (false, [.bootRomUnmap]) := by decide

/-- V44-11. -/
theorem test_store_fails : after (fun t => (t.fault, t.events)) (exec (.wrGeneric 0xFF80#16 0x42#8) failing) =
    some (some (.storeFail 0xFF80#16), []) := by decide

/-- V44-4. -/
theorem test_lcdpal_mono : after State.events (exec (.wrLcdpal 0xFF47#16 0xE4#8) mono) =
    some [.cacheClear, .extWrite .lcd 0xFF47#16 0xE4#8] := by decide

/-! ### Witnesses -/

theorem test_witness_DecodeEncodeRoundTrip : WellFormed true (.wrHdma5 0x81#8) = true ∧
    WellFormed false (.wrGeneric 0xFF55#16 0xFF#8) = true := by decide

theorem test_witness_DecodedWordsReencode : decode true 0x71FFFF00#32 = .ok (.vrdb 1#1 0xFFFF#16) := by decide

theorem test_witness_StepPerformsTheDecodedOperation :
    ({ idle with pending := [0x40000000#32] } : State).pending = 0x40000000#32 :: [] ∧
    decode idle.params.cgbMode 0x40000000#32 = .ok .tick := by decide

theorem test_witness_RefusedWordLeavesTheBlockAlone :
    ({ idle with pending := [0xF0000000#32] } : State).pending = 0xF0000000#32 :: [] ∧
    decode idle.params.cgbMode 0xF0000000#32 = .error .reservedKind := by decide

theorem test_witness_ResetRestoresTheBlock : active.fault = none ∧
    after (fun t => (t.transferActive, t.hdma5, t.hdma1)) (exec .reset active) = some (false, 0xFF#8, 0x00#8) := by decide

theorem test_witness_FaultedBlockIgnoresEveryOperation : faulted.fault ≠ none ∧
    after id (exec .reset faulted) = some faulted ∧ after id (exec (.wrVbk 0x01#8) faulted) = some faulted := by decide

/-- Each of the four faults, from every kind of operation that raises it. -/
theorem test_witness_FaultsComeOnlyFromTheirConditions :
    (idle.fault = none ∧ overHalves.fault = none ∧ failing.fault = none) ∧
    after State.fault (exec (.vrd 0x7FFF#16) idle) = some (some (.vramRange 0x7FFF#16)) ∧
    after State.fault (exec (.vrdb 1#1 0xA000#16) idle) = some (some (.vramRange 0xA000#16)) ∧
    after State.fault (exec (.resolveBg 8#4 0#4) idle) = some (some (.paletteRange .bg 8#4 0#4)) ∧
    after State.fault (exec (.resolveObj 0#4 4#4) idle) = some (some (.paletteRange .obj 0#4 4#4)) ∧
    after State.fault (exec .rdHdma4 idle) = some (some (.hdmaWoRead 0xFF54#16)) ∧
    after State.fault (exec (.wrHdma5 0x00#8) overHalves) = some (some (.hdmaWoRead 0xFF51#16)) ∧
    after State.fault (exec (.rdGeneric 0xFFFF#16) failing) = some (some (.storeFail 0xFFFF#16)) ∧
    after State.fault (exec (.wrGeneric 0xFF80#16 0x42#8) failing) = some (some (.storeFail 0xFF80#16)) ∧
    after State.fault (exec (.wrBoot 0x02#8) failing) = some (some (.storeFail 0xFF50#16)) ∧
    after State.fault (exec (.wrBoot 0x01#8) failing) = some none ∧
    after State.fault (exec .rdBoot failing) = some (some (.storeFail 0xFF50#16)) ∧
    after State.fault (exec .rdOamdma failing) = some (some (.storeFail 0xFF46#16)) ∧
    after State.fault (exec (.wrHdma5 0x00#8) { overHalves with replies := [⟨0x00#8, true⟩] }) =
      some (some (.storeFail 0xFF50#16)) := by decide

theorem test_witness_VramPortsFaultOutsideTheWindow : idle.fault = none ∧
    ¬ (0x8000 ≤ (0x7FFF#16).toNat ∧ (0x7FFF#16).toNat < 0xA000) ∧
    ¬ (0x8000 ≤ (0xA000#16).toNat ∧ (0xA000#16).toNat < 0xA000) := by decide

theorem test_witness_ResolveFaultsOutOfRange : idle.fault = none ∧ (7 < (8#4).toNat ∨ 3 < (0#4).toNat) ∧
    (7 < (7#4).toNat ∨ 3 < (4#4).toNat) := by decide

theorem test_witness_AddressHalfReadsFault : idle.fault = none ∧
    after id (exec .rdHdma3 idle) = some { idle with fault := some (.hdmaWoRead 0xFF53#16), result := none } := by decide

/-- Also both ways the last clause's premise holds. -/
theorem test_witness_StoreFailureFaults : failing.fault = none ∧ answerFails failing 0 = true ∧ ¬ (failing.bootRomMapped = true ∧ (0x02#8 = 0x01#8 ∨ 0x02#8 = 0x11#8)) ∧
    answerFails { failing with bootRomMapped := false } 0 = true ∧
    ¬ (({ failing with bootRomMapped := false } : State).bootRomMapped = true ∧ (0x11#8 = 0x01#8 ∨ 0x11#8 = 0x11#8)) := by
  decide

/-- V41-2. -/
theorem test_witness_VbkWriteSelectsTheBank : idle.fault = none ∧
    after id (exec (.wrVbk 0x03#8) idle) = some { idle with vbk := 1#1 } ∧ after id (exec (.wrVbk 0xFE#8) idle) = some idle := by decide

/-- V41-1. -/
theorem test_witness_VbkReadShowsTheBank : idle.fault = none ∧
    after State.result (exec .rdVbk { idle with vbk := 1#1 }) = some (some (.byte 0xFF#8)) ∧
    after State.result (exec .rdVbk idle) = some (some (.byte 0xFE#8)) := by decide

/-- Both ends of the window. -/
theorem test_witness_VramReadsReturnTheBankByte : idle.fault = none ∧
    (0x8000 ≤ (0x8000#16).toNat ∧ (0x8000#16).toNat < 0xA000) ∧
    (0x8000 ≤ (0x9FFF#16).toNat ∧ (0x9FFF#16).toNat < 0xA000) ∧
    after State.result (exec (.vrdb 1#1 0x9FFF#16) { idle with vram1 := [(8191, 0x5A#8)] }) = some (some (.byte 0x5A#8)) ∧
    after State.result (exec (.vrd 0x8000#16) { idle with vram0 := [(0, 0x11#8)] }) = some (some (.byte 0x11#8)) := by decide

theorem test_witness_VramWriteChangesOneByte : idle.Inv ∧ idle.fault = none ∧
    (0x8000 ≤ (0x9FFF#16).toNat ∧ (0x9FFF#16).toNat < 0xA000) ∧ inVram 0x9FFE#16 = true ∧ (0x9FFE#16) ≠ 0x9FFF#16 :=
  ⟨idle_inv, by decide⟩

theorem test_witness_PaletteIndexWriteStoresTheByte : idle.fault = none ∧
    after id (exec (.wrBcps 0x87#8) idle) = some { idle with bcps := 0x87#8 } ∧
    after id (exec (.wrOcps 0x80#8) idle) = some { idle with ocps := 0x80#8 } := by decide

/-- R151's and R153's examples. -/
theorem test_witness_PaletteIndexReadForcesBitSix : idle.fault = none ∧
    after State.result (exec .rdBcps { idle with bcps := 0x05#8 }) = some (some (.byte 0x45#8)) ∧
    after State.result (exec .rdOcps { idle with ocps := 0x80#8 }) = some (some (.byte 0xC0#8)) := by decide

/-- AI clear, AI set, and a write that moves the index. -/
theorem test_witness_AutoIncrementStep : (idle.palIndex .bg).getLsbD 7 = false ∧
    (({ idle with ocps := 0xBF#8 } : State).palIndex .obj).getLsbD 7 = true ∧ (0xFF#8).getLsbD 7 = true ∧
    after State.bcps (exec (.wrBcpd 0x00#8) { idle with bcps := 0x80#8 }) = some 0x81#8 ∧
    after State.ocps (exec (.wrOcps 0x01#8) idle) = some 0x01#8 := by decide

/-- R170's example. -/
theorem test_witness_PaletteDataWriteReplacesOneByte : idle.fault = none ∧
    after (fun t => (t.bgpal[0], t.bcps)) (exec (.wrBcpd 0x1F#8) { idle with bcps := 0x80#8 }) =
      some (0xFF1F#16, 0x81#8) := by decide

theorem test_witness_PaletteDataReadReturnsTheLowByte : idle.fault = none ∧
    after State.result (exec .rdBcpd idle) = some (some (.byte 0xFF#8)) := by decide

theorem test_witness_ResolveReturnsTheExpandedColour : idle.fault = none ∧ (7#4).toNat ≤ 7 ∧ (3#4).toNat ≤ 3 ∧
    (31 : Fin 32).val = (7#4).toNat * 4 + (3#4).toNat := by decide

theorem test_witness_IndexBitSixIsNeverObservable :
    let s₁ : State := { idle with bcps := 0xBF#8, pending := [0x10FF6900#32] }
    let s₂ : State := { s₁ with bcps := 0xFF#8 }
    s₁ ≠ s₂ ∧ s₁.forgetBit6 = s₂.forgetBit6 ∧ after State.bcps (step s₁) = some 0xC0#8 ∧
      after State.bcps (step s₂) = some 0x80#8 := by decide

/-- Both ends of the range; V44-5. -/
theorem test_witness_TimerIsPassedThrough : idle.fault = none ∧
    (0xFF04 ≤ (0xFF04#16).toNat ∧ (0xFF04#16).toNat ≤ 0xFF07) ∧ (0xFF04 ≤ (0xFF07#16).toNat ∧ (0xFF07#16).toNat ≤ 0xFF07) ∧
    after State.result (exec (.rdTimer 0xFF05#16) idle) = some (some (.byte 0x30#8)) ∧
    after State.events (exec (.wrTimer 0xFF06#16 0x80#8) idle) = some [.extWrite .timer 0xFF06#16 0x80#8] := by decide

/-- V44-1, V44-2. -/
theorem test_witness_AudioIsGatedByItsFlag : idle.fault = none ∧ idle.params.audioEnabled = true ∧
    (let off : State := { idle with params := { idle.params with audioEnabled := false } }
     off.fault = none ∧ off.params.audioEnabled = false ∧
     after State.result (exec (.rdAudio 0xFF26#16) off) = some (some (.byte 0x00#8)) ∧
     after State.events (exec (.wrAudio 0xFF12#16 0xF3#8) off) = some []) ∧
    after State.events (exec (.wrAudio 0xFF12#16 0xF3#8) idle) = some [.extWrite .audio 0xFF12#16 0xF3#8] := by decide

theorem test_witness_LcdIsPassedThrough : idle.fault = none ∧
    (0xFF4B#16).toNat ∈ [0xFF40, 0xFF42, 0xFF43, 0xFF47, 0xFF48, 0xFF49, 0xFF4A, 0xFF4B] ∧
    (0xFF40#16).toNat ∈ [0xFF40, 0xFF42, 0xFF43, 0xFF4A, 0xFF4B] ∧
    after State.result (exec (.rdLcd 0xFF42#16) idle) = some (some (.byte 0x30#8)) ∧
    after State.events (exec (.wrLcd 0xFF40#16 0x91#8) idle) = some [.extWrite .lcd 0xFF40#16 0x91#8] := by decide

theorem test_witness_LcdPaletteWriteClearsTheCacheInMono : idle.fault = none ∧ idle.params.cgbMode = true ∧
    mono.fault = none ∧ mono.params.cgbMode = false := by decide

/-- V44-8, V44-9. -/
theorem test_witness_OamDmaAndWramBankAreForwarded : idle.fault = none ∧ answerFails idle 0 = false ∧
    after State.events (exec (.wrOamdma 0xC1#8) idle) = some [.extWrite .oamDma 0xFF46#16 0xC1#8] ∧
    after State.reads (exec .rdOamdma idle) = some [(.store, 0xFF46#16)] ∧
    after State.reads (exec .rdWrambank idle) = some [(.wramBank, 0xFF70#16)] ∧
    after State.events (exec (.wrWrambank 0x02#8) idle) = some [.extWrite .wramBank 0xFF70#16 0x02#8] := by decide

theorem test_witness_BootRomDisableIsOneShot : idle.fault = none ∧ idle.bootRomMapped = true ∧
    answerFails idle 0 = false ∧ (0x03#8 ≠ 0x01#8 ∧ 0x03#8 ≠ 0x11#8) ∧
    ({ idle with bootRomMapped := false } : State).bootRomMapped = false ∧
    after State.result (exec .rdBoot idle) = some (some (.byte 0x30#8)) := by decide

/-- V44-12. -/
theorem test_witness_OtherAddressesGoToTheStore : idle.fault = none ∧ answerFails idle 0 = false ∧
    after State.events (exec (.wrGeneric 0x1234#16 0x9A#8) idle) = some [.extWrite .store 0x1234#16 0x9A#8] ∧
    after State.result (exec (.rdGeneric 0x1234#16) idle) = some (some (.byte 0x30#8)) := by decide

/-- R241 to R244's examples, while Active. -/
theorem test_witness_AddressHalfWritesStoreTheByte : active.fault = none ∧
    after id (exec (.wrHdma1 0x34#8) active) = some { active with hdma1 := 0x34#8 } ∧
    hdmaSrc 0x10#8 0x3C#8 = 0x1030#16 ∧ hdmaDst 0xE2#8 0xFF#8 = 0x82F0#16 ∧ hdmaDst 0x02#8 0xF0#8 = 0x82F0#16 := by decide

theorem test_witness_Hdma5ReadReturnsTheStoredByte : active.fault = none ∧
    after State.result (exec .rdHdma5 active) = some (some (.byte 0x01#8)) := by decide

/-- E6a. -/
theorem test_witness_PacedStartLoadsTheCursors : loaded.fault = none ∧ loaded.transferActive = false ∧
    (0x81#8).getLsbD 7 = true ∧ after id (exec (.wrHdma5 0x81#8) loaded) = some active := by decide

theorem test_witness_TerminationKeepsTheCount : active.fault = none ∧ active.transferActive = true ∧
    (0x7F#8).getLsbD 7 = false := by decide

/-- R254's example. -/
theorem test_witness_CountUpdateDoesNotRestart : active.fault = none ∧ active.transferActive = true ∧
    (0x80#8).getLsbD 7 = true ∧
    after State.hdma5 (exec (.wrHdma5 0x80#8) { active with hdma5 := 0x05#8 }) = some 0x00#8 := by decide

/-- A last tick, a tick before it, a reset and another operation. -/
theorem test_witness_ControllerTransitions : active.fault = none ∧
    after (fun t => (t.transferActive, t.fault)) (exec .tick active) = some (true, none) ∧
    after (fun t => (t.transferActive, t.fault)) (exec .tick { active with hdma5 := 0x00#8 }) = some (false, none) ∧
    after (fun t => (t.transferActive, t.fault)) (exec (.wrHdma5 0x00#8) loaded) = some (false, none) ∧
    after (fun t => (t.transferActive, t.fault)) (exec .reset active) = some (false, none) ∧
    after (fun t => (t.transferActive, t.fault)) (exec (.wrHdma1 0x00#8) active) = some (true, none) := by decide

/-- One address of each kind, at its boundary. -/
theorem test_witness_DmaReadsAreRoutedByTheMap : idle.fault = none ∧ idle.result = none ∧
    (inVram 0x8000#16 = true ∧ inVram 0x9FFF#16 = true) ∧
    (isExternal idle.params 0x7FFF#16 = true ∧ isExternal idle.params 0xA000#16 = true ∧
      isExternal idle.params 0xFF80#16 = true) ∧
    (inVram 0xFF00#16 = false ∧ inRouterWindow idle.params 0xFF00#16 = true ∧
      inVram 0xFF7F#16 = false ∧ inRouterWindow idle.params 0xFF7F#16 = true) := by decide

/-- Both kinds of output, V45-2's: the last VRAM byte and the first beyond it; and the farthest addresses. -/
theorem test_witness_DmaWritesNeverReachTheRouter :
    (mayCopy .tick ∧ mayCopy (.wrHdma5 0x01#8)) ∧
    after (fun t => (t.events.length, t.events[15]?, t.events[16]?))
      (exec (.wrHdma5 0x01#8) { idle with hdma1 := 0x20#8, hdma3 := 0x1F#8, hdma4 := 0xF0#8, replies := [] }) =
      some (32, some (.extWrite .sys 0xA000#16 (Config.freeByte 16)), some (.tileDirty 0#1 0x9FFF#16)) ∧
    after (fun t => t.events.length) (exec .tick active) = some 16 ∧
    2047 < hdmaLen 0x7F#8 ∧ nth (hdmaDst 0xFF#8 0xFF#8) 2047 = 0xA7EF#16 ∧
    nth (0x8000#16 ||| (0x9FF0#16 &&& 0x1FF0#16)) 15 = 0x9FFF#16 :=
  ⟨⟨Or.inl rfl, Or.inr ⟨_, rfl⟩⟩, rfl, by decide⟩

/-- E5a; and V45-2's destination, half beyond VRAM. -/
theorem test_witness_GeneralPurposeCopiesExternalBytes : loaded.Inv ∧ loaded.fault = none ∧
    loaded.transferActive = false ∧ (0x00#8).getLsbD 7 = false ∧ 0x1000#16 = hdmaSrc loaded.hdma1 loaded.hdma2 ∧
    0x8200#16 = hdmaDst loaded.hdma3 loaded.hdma4 ∧ 16 = hdmaLen 0x00#8 ∧
    (∀ i < 16, isExternal loaded.params (nth 0x1000#16 i) = true) ∧
    hdmaDst 0x1F#8 0xF0#8 = 0x9FF0#16 ∧ inVram (nth 0x9FF0#16 16) = false ∧
    (∀ i < 32, isExternal loaded.params (nth 0x1000#16 i) = true) :=
  ⟨loaded_inv, by decide⟩

/-- From the external bus, and (V45-3) from VRAM. -/
theorem test_witness_GeneralPurposeFrame :
    (let s : State := { idle with hdma1 := 0x80#8, hdma4 := 0x10#8, vram0 := [(0, 0x11#8), (1, 0x22#8)] }
     s.Inv ∧ s.fault = none ∧ s.transferActive = false ∧
       after (fun t => (t.fault, readVram 0#1 0x8011#16 t)) (exec (.wrHdma5 0x00#8) s) = some (none, 0x22#8)) ∧
    loaded.Inv ∧ loaded.fault = none ∧ loaded.transferActive = false ∧
    (0x00#8).getLsbD 7 = false ∧ after State.fault (exec (.wrHdma5 0x00#8) loaded) = some none :=
  ⟨⟨by constructor <;> decide, by decide⟩, loaded_inv, by decide⟩

theorem test_witness_FaultInsideACopyStopsIt : overHalves.Inv ∧ overHalves.fault = none ∧
    mayCopy (.wrHdma5 0x00#8) ∧ copyOf (.wrHdma5 0x00#8) overHalves = some ⟨0xFF50#16, 0x8000#16, 16⟩ ∧
    after (fun t => (t.fault, t.events, t.reads)) (exec (.wrHdma5 0x00#8) overHalves) =
      some (some (.hdmaWoRead 0xFF51#16), [.tileDirty 0#1 0x8000#16], [(.store, 0xFF50#16)]) :=
  ⟨overHalves_inv, by decide, Or.inr ⟨_, rfl⟩, by decide⟩

/-- The same for a chunk that meets a fault. -/
theorem test_witness_FaultInsideAChunk :
    let s : State := { active with curSrc := 0xFF50#16 }
    s.Inv ∧ s.fault = none ∧ mayCopy .tick ∧ copyOf .tick s = some ⟨0xFF50#16, 0x8200#16, 16⟩ ∧
      after (fun t => (t.fault, t.events, t.hdma5)) (exec .tick s) =
        some (some (.hdmaWoRead 0xFF51#16), [.tileDirty 0#1 0x8200#16], 0x01#8) :=
  ⟨by constructor <;> decide, by decide, Or.inl rfl, by decide⟩

/-- V45-3. -/
theorem test_witness_OverlappingCopyRepeatsTheFirstChunk :
    let s : State := { idle with hdma1 := 0x80#8, hdma2 := 0x00#8, hdma3 := 0x00#8, hdma4 := 0x10#8 }
    s.Inv ∧ s.fault = none ∧ s.transferActive = false ∧ (0x00#8).getLsbD 7 = false ∧ 0x8000#16 = hdmaSrc s.hdma1 s.hdma2 ∧
      hdmaDst s.hdma3 s.hdma4 = 0x8000#16 + 16#16 ∧ 0x8000 ≤ (0x8000#16).toNat ∧
      (0x8000#16).toNat + 16 + hdmaLen 0x00#8 ≤ 0xA000 :=
  ⟨by constructor <;> decide, by decide⟩

theorem test_witness_CopyFromTheAddressHalvesFaults : overHalves.fault = none ∧ overHalves.transferActive = false ∧
    (0x00#8).getLsbD 7 = false ∧ overHalves.params.cgbMode = true ∧
    (∃ i < hdmaLen 0x00#8, nth (hdmaSrc overHalves.hdma1 overHalves.hdma2) i = 0xFF51#16) ∧
    after State.fault (exec (.wrHdma5 0x00#8) overHalves) ≠ none := by decide

theorem test_witness_TickStepsTheCursorsAndTheCount : (idle.fault = none ∧ idle.transferActive = false) ∧
    active.Inv ∧ active.fault = none ∧ active.transferActive = true ∧
    after State.fault (exec .tick active) = some none ∧
    (inVram 0x8210#16 = true ∧ ∀ i < 16, 0x8210#16 ≠ nth active.curDst i) :=
  ⟨by decide, active_inv, by decide⟩

theorem test_witness_TickCopiesOneExternalChunk : active.Inv ∧ active.fault = none ∧ active.transferActive = true ∧
    ∀ i < 16, isExternal active.params (nth active.curSrc i) = true :=
  ⟨active_inv, by decide⟩

/-- E6a: two chunks. -/
theorem test_witness_PacedTransferEndsAfterCountPlusOneTicks : loaded.Inv ∧ loaded.fault = none ∧
    loaded.transferActive = false ∧ loaded.params.cgbMode = true ∧ (0x81#8).getLsbD 7 = true ∧
    hdmaChunks 0x81#8 = 2 ∧ after id (exec (.wrHdma5 0x81#8) loaded) = some active ∧
    (afterTicks 2 active).fault = none ∧ (afterTicks 1 active).hdma5 = 0x00#8 ∧ (afterTicks 2 active).hdma5 = 0xFF#8 :=
  ⟨loaded_inv, by decide⟩

/-- R280's example. -/
theorem test_witness_Key1IsStoredVerbatim : idle.fault = none ∧
    after id (exec (.wrKey1 0x7F#8) idle) = some { idle with key1 := 0x7F#8 } ∧
    after State.result (exec .rdKey1 { idle with key1 := 0x7F#8 }) = some (some (.byte 0x7F#8)) := by decide

/-- E8a: with PENDING, and without. -/
theorem test_witness_CommitSwitchesThePendingSpeed :
    (({ idle with key1 := 0x01#8 } : State).fault = none ∧ ({ idle with key1 := 0x01#8 } : State).key1.getLsbD 0 = true) ∧
    (({ idle with key1 := 0x80#8 } : State).key1.getLsbD 0 = false) := by decide

theorem test_witness_OnlyCommitAndResetChangeTheSpeed :
    after State.doubleSpeed (exec .commit { idle with key1 := 0x01#8 }) = some true ∧
    after State.doubleSpeed (exec .reset { idle with doubleSpeed := true }) = some false := by decide

theorem test_witness_EveryStepKeepsTheInvariant : active.Inv ∧
    after State.hdma5 (step { active with pending := [0x40000000#32] }) = some 0x00#8 ∧
    after State.hdma5 (step { active with pending := [0x10FF5500#32] }) = some 0x81#8 :=
  ⟨active_inv, by decide⟩

theorem test_witness_NoStepTakesAnythingBack :
    after (fun t => (t.fault, t.draws)) (step { faulted with pending := [0x80000000#32] }) =
      some (some (.hdmaWoRead 0xFF51#16), 0) ∧
    after State.draws (step { active with pending := [0x40000000#32] }) = some 16 := by decide

theorem test_witness_CacheClearIsEmittedExactlyThen : idle.fault = none ∧
    after (fun t => t.events.count .cacheClear) (exec (.wrOcpd 0x00#8) idle) = some 1 ∧
    after (fun t => t.events.count .cacheClear) (exec (.wrLcdpal 0xFF48#16 0x00#8) mono) = some 1 ∧
    after (fun t => t.events.count .cacheClear) (exec (.wrLcdpal 0xFF48#16 0x00#8) idle) = some 0 ∧
    after (fun t => t.events.count .cacheClear) (exec (.wrBcps 0x00#8) idle) = some 0 := by decide

theorem test_witness_VramChangesAreAnnounced : active.Inv ∧ (Instr.tick ≠ .reset) ∧ inVram 0x8200#16 = true ∧
    after (fun t => (readVram 0#1 0x8200#16 t != readVram 0#1 0x8200#16 active, t.events.contains (.tileDirty 0#1 0x8200#16)))
      (exec .tick active) = some (true, true) :=
  ⟨active_inv, by decide⟩

theorem test_witness_MonochromeModeReachesNoColourRegister :
    let s : State := { mono with pending := [0x10FF5581#32], hdma5 := 0xFF#8 }
    s.params.cgbMode = false ∧ s.transferActive = false ∧ s.pending = 0x10FF5581#32 :: [] ∧
      (0x10FF5581#32 ≠ 0x80000000#32) ∧ (0x10FF5581#32 ≠ 0x50000000#32) ∧
      after State.events (step s) = some [.extWrite .store 0xFF55#16 0x81#8] := by decide

end Sys2Proof.Tests
end

section
/-! PROOFS. The family 30_encoding.md: the transfer addresses and lengths of R105 as unsigned numbers. An address is its
high byte appended to its low byte, so its number is `high * 256 + low`; the destination is the source formula with 0x80
set in a five-bit high byte. -/

namespace Sys2Proof.Machine

/-- A mask of the low `k` bits is the remainder by `2 ^ k`. -/
theorem toNat_and_lowBits (k : Nat) (v : Byte) (hk : k ≤ 8) :
    (v &&& BitVec.ofNat 8 (2 ^ k - 1)).toNat = v.toNat % 2 ^ k := by
  have hfits : 2 ^ k ≤ 2 ^ 8 := Nat.pow_le_pow_right (by decide) hk
  rw [BitVec.toNat_and, BitVec.toNat_ofNat, Nat.mod_eq_of_lt (by omega), Nat.and_two_pow_sub_one_eq_mod]

theorem toNat_and_highNibble (h : Byte) : (h &&& 0xF0#8).toNat = h.toNat / 16 * 16 := by
  revert h; decide

theorem hdmaSrc_eq_append (h1 h2 : Byte) : hdmaSrc h1 h2 = h1 ++ (h2 &&& 0xF0#8) := by
  rw [hdmaSrc, BitVec.append_def, BitVec.shiftLeftZeroExtend_eq, BitVec.setWidth'_eq]

theorem hdmaSrc_toNat (h1 h2 : Byte) : (hdmaSrc h1 h2).toNat = h1.toNat * 256 + h2.toNat / 16 * 16 := by
  have hlow : h2.toNat / 16 * 16 < 2 ^ 8 := by omega
  rw [hdmaSrc_eq_append, BitVec.toNat_append, toNat_and_highNibble, ← Nat.shiftLeft_add_eq_or_of_lt hlow,
    Nat.shiftLeft_eq]

theorem hdmaDst_eq_hdmaSrc (h3 h4 : Byte) : hdmaDst h3 h4 = hdmaSrc (0x80#8 ||| (h3 &&& 0x1F#8)) h4 := by
  simp [hdmaDst, hdmaSrc, BitVec.setWidth_or, BitVec.shiftLeft_or_distrib]

/-- Five bits lie below bit 7, so setting it adds 0x80. -/
theorem hdmaDst_highByte_toNat (h3 : Byte) : (0x80#8 ||| (h3 &&& 0x1F#8)).toNat = 0x80 + h3.toNat % 32 := by
  have hlow : h3.toNat % 32 < 2 ^ 7 := by omega
  have hmask : (h3 &&& 0x1F#8).toNat = h3.toNat % 32 := toNat_and_lowBits 5 h3 (by decide)
  rw [BitVec.toNat_or, hmask]
  exact (Nat.two_pow_add_eq_or_of_lt hlow 1).symm

theorem hdmaDst_toNat (h3 h4 : Byte) :
    (hdmaDst h3 h4).toNat = 0x8000 + h3.toNat % 32 * 256 + h4.toNat / 16 * 16 := by
  rw [hdmaDst_eq_hdmaSrc, hdmaSrc_toNat, hdmaDst_highByte_toNat, Nat.add_mul]

theorem hdmaChunks_eq (v : Byte) : hdmaChunks v = v.toNat % 128 + 1 :=
  congrArg (· + 1) (toNat_and_lowBits 7 v (by decide))

theorem hdmaLen_eq_hdmaChunks_mul (v : Byte) : hdmaLen v = hdmaChunks v * 16 := rfl

/-- Settles O37: each of R105's four functions by its number. -/
theorem dmaOperandAssembly : Obligations.DmaOperandAssembly := by
  intro h1 h2 h3 h4 v
  have hlen : hdmaLen v = (v.toNat % 128 + 1) * 16 := by rw [hdmaLen_eq_hdmaChunks_mul, hdmaChunks_eq]
  exact ⟨hdmaSrc_toNat h1 h2, hdmaDst_toNat h3 h4, hlen, hdmaChunks_eq v⟩

end Sys2Proof.Machine
end

section
/-! PROOFS. The family 43_palette_color.md: the colour expansion of R176. The expanded colour is three bytes appended, each
five colour bits above three zeros; both halves of the statement are read off that form. -/

namespace Sys2Proof.Machine

/-- The output channel of the five colour bits from bit `k` up: those bits above three zeros. -/
def channelByte (c : BitVec 15) (k : Nat) : Byte := c.extractLsb' k 5 ++ 0#3

theorem channelByte_toNat (c : BitVec 15) (k : Nat) : (channelByte c k).toNat = c.toNat / 2 ^ k % 32 * 8 := by
  rw [channelByte, BitVec.toNat_append, BitVec.extractLsb'_toNat, Nat.shiftRight_eq_div_pow, Nat.shiftLeft_eq]
  exact Nat.or_zero _

theorem channelByte_and_lowBits (c : BitVec 15) (k : Nat) : channelByte c k &&& 0x07#8 = 0#8 := by
  have hmask : (0x07#8 : Byte) = 0#5 ++ 7#3 := rfl
  rw [channelByte, hmask, BitVec.and_append, BitVec.and_zero, BitVec.zero_and]
  rfl

/-- A channel as the model computes it, masked and shifted in the 24-bit word. -/
theorem maskedChannel_shiftLeft_eq_channelByte (c : BitVec 15) (k : Nat) :
    ((c >>> k) &&& 0x1F#15).zeroExtend 24 <<< 3 = (channelByte c k).setWidth 24 := by
  have hmask : ((c >>> k) &&& 0x1F#15).toNat = c.toNat / 2 ^ k % 32 := by
    rw [BitVec.toNat_and, BitVec.toNat_ushiftRight, Nat.shiftRight_eq_div_pow]
    exact Nat.and_two_pow_sub_one_eq_mod _ 5
  apply BitVec.eq_of_toNat_eq
  rw [BitVec.toNat_shiftLeft, BitVec.toNat_setWidth, BitVec.toNat_setWidth, hmask, channelByte_toNat, Nat.shiftLeft_eq]
  omega

theorem expand15to24_eq_append (c : BitVec 15) :
    expand15to24 c = channelByte c 0 ++ channelByte c 5 ++ channelByte c 10 := by
  calc expand15to24 c
      = (channelByte c 0).setWidth 24 <<< (8 + 8) ||| (channelByte c 5).setWidth 24 <<< 8 |||
          (channelByte c 10).setWidth 24 := by
        simp only [Nat.reduceAdd, ← maskedChannel_shiftLeft_eq_channelByte, BitVec.ushiftRight_zero, expand15to24]
    _ = (channelByte c 0 ++ channelByte c 5 ++ channelByte c 10).setWidth 24 :=
        BitVec.setWidth_append_append_eq_shiftLeft_setWidth_or.symm
    _ = channelByte c 0 ++ channelByte c 5 ++ channelByte c 10 := BitVec.setWidth_eq _

theorem toNat_append_bytes (r g b : Byte) : (r ++ g ++ b).toNat = r.toNat * 65536 + g.toNat * 256 + b.toNat := by
  rw [BitVec.toNat_append, BitVec.toNat_append, ← Nat.shiftLeft_add_eq_or_of_lt g.isLt,
    ← Nat.shiftLeft_add_eq_or_of_lt b.isLt, Nat.shiftLeft_eq, Nat.shiftLeft_eq]
  omega

theorem expand15to24_and_lowBits (c : BitVec 15) : expand15to24 c &&& 0x070707#24 = 0#24 := by
  have hmask : (0x070707#24 : Rgb24) = 0x07#8 ++ 0x07#8 ++ 0x07#8 := rfl
  rw [expand15to24_eq_append, hmask, BitVec.and_append, BitVec.and_append]
  simp only [channelByte_and_lowBits]
  rfl

theorem expand15to24_toNat (c : BitVec 15) :
    (expand15to24 c).toNat =
      (c.toNat % 32 * 8) * 65536 + (c.toNat / 32 % 32 * 8) * 256 + c.toNat / 1024 % 32 * 8 := by
  rw [expand15to24_eq_append, toNat_append_bytes]
  simp only [channelByte_toNat, Nat.div_one, Nat.reducePow]

/-- Settles O26: the number and the zero low bits of the three appended channel bytes. -/
theorem colourExpansionIsExact : Obligations.ColourExpansionIsExact :=
  fun c => ⟨expand15to24_toNat c, expand15to24_and_lowBits c⟩

end Sys2Proof.Machine
end

section
/-! PROOFS. The family 45_hdma.md: the writes to HDMA1..HDMA4 (R241-R244), and the HDMA5 command while Active (R253,
R254). A write's word is the one with DATA zero, with the data byte set in it; its meaning is the instruction's
`effect`, taken in the state with the result cleared. -/

namespace Sys2Proof

/-- Setting the data byte in the write word with DATA zero gives the write word of that byte. -/
theorem OpWord.wr_or_data (a : Addr) (v : Byte) : OpWord.wr a 0#8 ||| v.zeroExtend 32 = OpWord.wr a v := by
  have hdata : v.zeroExtend 32 = 0#24 ++ v := BitVec.setWidth_eq_append (by decide)
  rw [hdata]
  exact BitVec.or_append.trans (congrArg₂ (· ++ ·) BitVec.or_zero BitVec.zero_or)

theorem decode_wr_or_data (cgb : Bool) (a : Addr) (v : Byte) :
    decode cgb (OpWord.wr a 0#8 ||| v.zeroExtend 32) = .ok ((writeHandler cgb a).instr a v) := by
  rw [OpWord.wr_or_data, decode_wr]

theorem decode_wrHdma5Word (v : Byte) : decode true (0x10FF5500#32 ||| v.zeroExtend 32) = .ok (.wrHdma5 v) :=
  decode_wr_or_data true 0xFF55#16 v

end Sys2Proof

namespace Sys2Proof.Machine

theorem exec_running (i : Instr) {s : State} (h : s.fault = none) : exec i s = .next (effect i (s.setResult none)) := by
  rw [exec_eq, operation_running _ h]

/-! ### The address halves -/

theorem hdmaSrc_highByte (h1 h2 : Byte) : (hdmaSrc h1 h2).extractLsb' 8 8 = h1 := by
  rw [hdmaSrc_eq_append, BitVec.extractLsb'_append_eq_left]

theorem hdmaSrc_and_highNibble (h1 h2 : Byte) : hdmaSrc h1 (h2 &&& 0xF0#8) = hdmaSrc h1 h2 := by
  rw [hdmaSrc_eq_append, hdmaSrc_eq_append, BitVec.and_assoc, BitVec.and_self]

theorem hdmaDst_highByte (h3 h4 : Byte) : (hdmaDst h3 h4).extractLsb' 8 8 = 0x80#8 ||| (h3 &&& 0x1F#8) := by
  rw [hdmaDst_eq_hdmaSrc, hdmaSrc_highByte]

theorem hdmaDst_and_usedBits (h3 h4 : Byte) : hdmaDst (h3 &&& 0x1F#8) (h4 &&& 0xF0#8) = hdmaDst h3 h4 := by
  rw [hdmaDst_eq_hdmaSrc, hdmaDst_eq_hdmaSrc, BitVec.and_assoc, BitVec.and_self, hdmaSrc_and_highNibble]

/-- Settles O35: each write's effect is one register's update, and the halves' unused bits are masked off. -/
theorem addressHalfWritesStoreTheByte : Obligations.AddressHalfWritesStoreTheByte := by
  refine ⟨fun v => ?words, fun s v h => ?effects, fun h1 h2 h3 h4 => ?addresses⟩
  case words =>
    exact ⟨decode_wr_or_data true 0xFF51#16 v, decode_wr_or_data true 0xFF52#16 v, decode_wr_or_data true 0xFF53#16 v,
      decode_wr_or_data true 0xFF54#16 v⟩
  case effects =>
    exact ⟨exec_running (.wrHdma1 v) h, exec_running (.wrHdma2 v) h, exec_running (.wrHdma3 v) h,
      exec_running (.wrHdma4 v) h⟩
  case addresses =>
    exact ⟨hdmaSrc_highByte h1 h2, (hdmaSrc_and_highNibble h1 h2).symm, (hdmaDst_and_usedBits h3 h4).symm,
      hdmaDst_highByte h3 h4⟩

/-! ### The HDMA5 command while Active -/

theorem writeHdma5_active_bitClear {s : State} {v : Byte} (ha : s.transferActive = true) (hv : v.getLsbD 7 = false) :
    writeHdma5 v s = terminate s := by
  rw [writeHdma5, hdmaMode, if_pos ha, if_neg (Bool.eq_false_iff.mp hv)]

theorem writeHdma5_active_bitSet {s : State} {v : Byte} (ha : s.transferActive = true) (hv : v.getLsbD 7 = true) :
    writeHdma5 v s = updateCount v s := by
  rw [writeHdma5, hdmaMode, if_pos ha, if_pos hv]

/-- Settles O39: the command is `terminate`, which writes transfer_active and HDMA5 only. -/
theorem terminationKeepsTheCount : Obligations.TerminationKeepsTheCount := by
  refine ⟨decode_wrHdma5Word, fun s v hf ha hv => ?_⟩
  have heffect : effect (.wrHdma5 v) (s.setResult none) = terminate (s.setResult none) :=
    writeHdma5_active_bitClear ha hv
  rw [exec_running _ hf, heffect]
  rfl

theorem hdmaLow7_bit7 (v : Byte) : (hdmaLow7 v).getLsbD 7 = false := by
  rw [hdmaLow7, BitVec.getLsbD_and]
  exact Bool.and_false _

theorem hdmaChunks_hdmaLow7 (v : Byte) : hdmaChunks (hdmaLow7 v) = hdmaChunks v := by
  rw [hdmaChunks, hdmaLow7, BitVec.and_assoc, BitVec.and_self, ← hdmaChunks]

/-- Settles O40: the command is `updateCount`, which writes HDMA5 only, with the low seven bits of the byte. -/
theorem countUpdateDoesNotRestart : Obligations.CountUpdateDoesNotRestart := by
  refine ⟨fun v => ?_, fun s v hf ha hv => ?_⟩
  · exact ⟨decode_wrHdma5Word v, hdmaLow7_bit7 v, (hdmaChunks_hdmaLow7 v).trans (hdmaChunks_eq v)⟩
  · have heffect : effect (.wrHdma5 v) (s.setResult none) = updateCount v (s.setResult none) :=
      writeHdma5_active_bitSet ha hv
    rw [exec_running _ hf, heffect]
    rfl

end Sys2Proof.Machine
end

section
/-! PROOFS. The family 46_double_speed.md: COMMIT (R282). The switched KEY1 differs from the old one in the bits of 0x81
only, PENDING and SPEED; the state's update is `commitSwitch`, taken in the state with the result cleared. -/

namespace Sys2Proof.Machine

/-! ### The switched KEY1 -/

theorem key1Pending_key1Switched (k : Byte) : key1Pending (key1Switched k) = !key1Pending k := by
  rw [key1Pending, key1Switched, BitVec.getLsbD_xor]
  exact Bool.xor_true _

theorem key1Switched_bit7 (k : Byte) : (key1Switched k).getLsbD 7 = !k.getLsbD 7 := by
  rw [key1Switched, BitVec.getLsbD_xor]
  exact Bool.xor_true _

theorem xor_and_distrib {w : Nat} (x y z : BitVec w) : (x ^^^ y) &&& z = (x &&& z) ^^^ (y &&& z) := by
  ext i hi
  rw [BitVec.getElem_and, BitVec.getElem_xor, BitVec.getElem_xor, BitVec.getElem_and, BitVec.getElem_and,
    Bool.and_xor_distrib_right]

/-- The switch's bits 0x81 and the mask of KEY1[6:1] have no bit in common. -/
theorem key1Switched_and_unusedBits (k : Byte) : key1Switched k &&& 0x7E#8 = k &&& 0x7E#8 := by
  have hdisjoint : (0x81#8 : Byte) &&& 0x7E#8 = 0#8 := rfl
  rw [key1Switched, xor_and_distrib, hdisjoint, BitVec.xor_zero]

/-! ### The switch -/

theorem commitSwitch_pending {s : State} (h : key1Pending s.key1 = true) :
    commitSwitch s = (s.setDoubleSpeed (!s.doubleSpeed)).setKey1 (key1Switched s.key1) := if_pos h

theorem commitSwitch_idle {s : State} (h : key1Pending s.key1 = false) : commitSwitch s = s :=
  if_neg (Bool.eq_false_iff.mp h)

/-- Settles O53: COMMIT's effect is `commitSwitch`, split on PENDING; the bits of the new KEY1 are those of its switch. -/
theorem commitSwitchesThePendingSpeed : Obligations.CommitSwitchesThePendingSpeed := by
  refine ⟨fun cgb => ?word, fun s hf hpending => ?switches, fun s hf hidle => ?nothing⟩
  case word => exact decode_pack .commit 0#1 0#16 0#8 cgb (fun _ => rfl) (fun _ => rfl) (fun _ => rfl)
  case switches =>
    have heffect : effect .commit (s.setResult none) =
        ((s.setResult none).setDoubleSpeed (!s.doubleSpeed)).setKey1 (key1Switched s.key1) :=
      commitSwitch_pending hpending
    have hcleared : key1Pending (key1Switched s.key1) = false :=
      (key1Pending_key1Switched s.key1).trans (congrArg not hpending)
    refine ⟨?_, hcleared, key1Switched_bit7 s.key1, key1Switched_and_unusedBits s.key1⟩
    rw [exec_running _ hf, heffect]
    rfl
  case nothing =>
    have heffect : effect .commit (s.setResult none) = s.setResult none := commitSwitch_idle hidle
    rw [exec_running _ hf, heffect]
    rfl

end Sys2Proof.Machine
end

section
/-! PROOFS. The operation word and the decoder (R100-R111, R191-R193): O1 to O5. A word is the packing of its fields, and
the router's table gives each bus address one row; the finite facts about the rows are facts about the low byte of an
address of page 0xFF, all other addresses going to the generic row. -/

namespace Sys2Proof

/-! ### The rows of the decode table -/

/-- The bus address in the word of a read row taken at `a`: the row's own, where it has only one. -/
def ReadHandler.wordAddr (a : Addr) : ReadHandler → Addr
  | .timer | .audio | .lcd | .generic => a
  | .oamDma => 0xFF46#16
  | .key1 => 0xFF4D#16
  | .vbk => 0xFF4F#16
  | .boot => 0xFF50#16
  | .hdma1 => 0xFF51#16
  | .hdma2 => 0xFF52#16
  | .hdma3 => 0xFF53#16
  | .hdma4 => 0xFF54#16
  | .hdma5 => 0xFF55#16
  | .bcps => 0xFF68#16
  | .bcpd => 0xFF69#16
  | .ocps => 0xFF6A#16
  | .ocpd => 0xFF6B#16
  | .wramBank => 0xFF70#16

/-- The bus address in the word of a write row taken at `a`. -/
def WriteHandler.wordAddr (a : Addr) : WriteHandler → Addr
  | .timer | .audio | .lcd | .lcdPal | .generic => a
  | .oamDma => 0xFF46#16
  | .key1 => 0xFF4D#16
  | .vbk => 0xFF4F#16
  | .boot => 0xFF50#16
  | .hdma1 => 0xFF51#16
  | .hdma2 => 0xFF52#16
  | .hdma3 => 0xFF53#16
  | .hdma4 => 0xFF54#16
  | .hdma5 => 0xFF55#16
  | .bcps => 0xFF68#16
  | .bcpd => 0xFF69#16
  | .ocps => 0xFF6A#16
  | .ocpd => 0xFF6B#16
  | .wramBank => 0xFF70#16

theorem encode_readHandler_instr (h : ReadHandler) (a : Addr) : encode (h.instr a) = OpWord.rd (h.wordAddr a) := by
  cases h <;> rfl

theorem encode_writeHandler_instr (h : WriteHandler) (a : Addr) (v : Byte) :
    encode (h.instr a v) = OpWord.wr (h.wordAddr a) v := by
  cases h <;> rfl

/-- Whether a write exists in a colour mode does not depend on its byte. -/
theorem wellFormed_writeHandler_instr (cgb : Bool) (h : WriteHandler) (a : Addr) (v : Byte) :
    WellFormed cgb (h.instr a v) = WellFormed cgb (h.instr a 0#8) := by
  cases h <;> rfl

theorem readHandler_below (cgb : Bool) {a : Addr} (h : a.toNat < 0xFF00) : readHandler cgb a = .generic := by
  rw [readHandler, addressMap_find_none a cgb h]

theorem writeHandler_below (cgb : Bool) {a : Addr} (h : a.toNat < 0xFF00) : writeHandler cgb a = .generic := by
  rw [writeHandler, addressMap_find_none a cgb h]

/-- No row but the generic one names an address below page 0xFF. -/
theorem Addr.isNamed_below (cgb : Bool) {a : Addr} (h : a.toNat < 0xFF00) : Addr.isNamed cgb a = false := by
  have hne : ∀ x : Addr, 0xFF00 ≤ x.toNat → a ≠ x := by rintro x hx rfl; omega
  have hout : ∀ lo hi : Addr, 0xFF00 ≤ lo.toNat → Addr.within lo hi a = false := by
    intro lo hi hlo
    rw [← Bool.not_eq_true, Addr.within_iff]
    omega
  simp [Addr.isNamed, Addr.isTimer, Addr.isAudio, Addr.isLcdControl, Addr.isLcdPal, Addr.isCgbOnly, hne, hout]

/-- The row the table gives for a read of `a` exists in the mode, and its word names `a`. -/
theorem readHandler_names (cgb : Bool) (a : Addr) :
    WellFormed cgb ((readHandler cgb a).instr a) = true ∧ (readHandler cgb a).wordAddr a = a := by
  by_cases h : a.toNat < 0xFF00
  · rw [readHandler_below cgb h]
    exact ⟨by simp [ReadHandler.instr, WellFormed, Addr.isNamed_below cgb h], rfl⟩
  · apply Addr.page_ff a (by omega)
    revert cgb; decide

theorem writeHandler_names (cgb : Bool) (a : Addr) (v : Byte) :
    WellFormed cgb ((writeHandler cgb a).instr a v) = true ∧ (writeHandler cgb a).wordAddr a = a := by
  rw [wellFormed_writeHandler_instr]
  by_cases h : a.toNat < 0xFF00
  · rw [writeHandler_below cgb h]
    exact ⟨by simp [WriteHandler.instr, WellFormed, Addr.isNamed_below cgb h], rfl⟩
  · apply Addr.page_ff a (by omega)
    revert cgb; decide

/-! ### Encoding, then decoding -/

theorem decode_rd_of_row {cgb : Bool} {a : Addr} {h : ReadHandler} (hrow : readHandler cgb a = h) :
    decode cgb (OpWord.rd a) = .ok (h.instr a) := by
  rw [decode_rd, hrow]

theorem decode_wr_of_row {cgb : Bool} {a : Addr} {h : WriteHandler} (v : Byte) (hrow : writeHandler cgb a = h) :
    decode cgb (OpWord.wr a v) = .ok (h.instr a v) := by
  rw [decode_wr, hrow]

theorem decode_resolveWord (cgb : Bool) (sel : BitVec 1) (p c : BitVec 4) :
    decode cgb (OpWord.pack .resolve sel 0#16 (p ++ c)) = .ok (if sel = 0#1 then .resolveBg p c else .resolveObj p c) := by
  have hp : (p ++ c).extractLsb' 4 4 = p := BitVec.extractLsb'_append_eq_left
  have hc : (p ++ c).extractLsb' 0 4 = c := BitVec.extractLsb'_append_eq_right
  rw [decode_pack .resolve sel 0#16 (p ++ c) cgb (fun h => nomatch h) (fun _ => rfl) (fun h => nomatch h), Kind.instr,
    hp, hc]

/-- Settles O1: a bus access by its row of the table, any other operation by the fields of its word. -/
theorem decodeEncodeRoundTrip : Obligations.DecodeEncodeRoundTrip := by
  intro cgb i h
  cases i
  case rdTimer a => exact decode_rd_of_row ((readHandler_rows a cgb).1 h)
  case rdAudio a => exact decode_rd_of_row ((readHandler_rows a cgb).2.1 h)
  case rdLcd a => exact decode_rd_of_row ((readHandler_rows a cgb).2.2.1 h)
  case rdGeneric a => exact decode_rd_of_row ((readHandler_rows a cgb).2.2.2 (by simpa [WellFormed] using h))
  case wrTimer a v => exact decode_wr_of_row v ((writeHandler_rows a cgb).1 h)
  case wrAudio a v => exact decode_wr_of_row v ((writeHandler_rows a cgb).2.1 h)
  case wrLcd a v => exact decode_wr_of_row v ((writeHandler_rows a cgb).2.2.1 h)
  case wrLcdpal a v => exact decode_wr_of_row v ((writeHandler_rows a cgb).2.2.2.1 h)
  case wrGeneric a v => exact decode_wr_of_row v ((writeHandler_rows a cgb).2.2.2.2 (by simpa [WellFormed] using h))
  case resolveBg p c => exact decode_resolveWord cgb 0#1 p c
  case resolveObj p c => exact decode_resolveWord cgb 1#1 p c
  case vrd a => exact decode_pack .vrd 0#1 a 0#8 cgb (fun _ => rfl) (fun h => nomatch h) (fun _ => rfl)
  case vwr a v => exact decode_pack .vwr 0#1 a v cgb (fun _ => rfl) (fun h => nomatch h) (fun h => nomatch h)
  case vrdb b a => exact decode_pack .vrdb b a 0#8 cgb (fun h => nomatch h) (fun h => nomatch h) (fun _ => rfl)
  case tick => exact decode_pack .tick 0#1 0#16 0#8 cgb (fun _ => rfl) (fun _ => rfl) (fun _ => rfl)
  case commit => exact decode_pack .commit 0#1 0#16 0#8 cgb (fun _ => rfl) (fun _ => rfl) (fun _ => rfl)
  case reset => exact decode_pack .reset 0#1 0#16 0#8 cgb (fun _ => rfl) (fun _ => rfl) (fun _ => rfl)
  -- the rows of one address that exist in both modes
  case rdOamdma | rdBoot | rdWrambank => cases cgb <;> exact decode_rd _ _
  case wrOamdma v | wrBoot v | wrWrambank v => cases cgb <;> exact decode_wr _ _ _
  -- the rows of one address that exist in colour mode only
  case rdKey1 | rdVbk | rdHdma1 | rdHdma2 | rdHdma3 | rdHdma4 | rdHdma5 | rdBcps | rdBcpd | rdOcps | rdOcpd =>
    obtain rfl : cgb = true := h
    exact decode_rd _ true
  case wrKey1 v | wrVbk v | wrHdma1 v | wrHdma2 v | wrHdma3 v | wrHdma4 v | wrHdma5 v | wrBcps v | wrBcpd v | wrOcps v |
      wrOcpd v =>
    obtain rfl : cgb = true := h
    exact decode_wr _ v true

/-! ### Decoding, then encoding -/

theorem Kind.code_of_ofField {f : BitVec 4} {k : Kind} (h : Kind.ofField f = some k) : k.code = f := by
  revert f; cases k <;> decide

theorem Kind.ofField_eq_none_iff (f : BitVec 4) : Kind.ofField f = none ↔ 9 ≤ f.toNat := by
  revert f; decide

/-- A word whose RSV is 0 is the packing of its fields. -/
theorem OpWord.pack_fields {w : OpWord} {k : Kind} (hk : k.code = OpWord.kind w) (hr : OpWord.rsv w = 0#3) :
    OpWord.pack k (OpWord.sel w) (OpWord.addr w) (OpWord.data w) = w := by
  have join {i j m n : Nat} (h : i = j + m) : w.extractLsb' i n ++ w.extractLsb' j m = w.extractLsb' j (n + m) :=
    BitVec.extractLsb'_append_extractLsb'_eq_extractLsb' h
  rw [OpWord.pack, hk, ← hr, OpWord.kind, OpWord.rsv, OpWord.sel, OpWord.addr, OpWord.data, join (show 28 = 25 + 3 from rfl),
    join (show 25 = 24 + 1 from rfl), join (show 24 = 8 + 16 from rfl), join (show 8 = 0 + 8 from rfl)]
  exact BitVec.extractLsb'_eq_self

/-- The fields that R101 marks as 0 for a KIND are 0, and so is RSV. -/
structure OpWord.FieldsFit (k : Kind) (w : OpWord) : Prop where
  rsv : OpWord.rsv w = 0#3
  sel : k.usesSel = false → OpWord.sel w = 0#1
  addr : k.usesAddr = false → OpWord.addr w = 0#16
  data : k.usesData = false → OpWord.data w = 0#8

/-- A word of a KIND is refused, or its fields fit and it decodes to the KIND's operation. -/
theorem decode_of_kind (cgb : Bool) {w : OpWord} {k : Kind} (hk : Kind.ofField (OpWord.kind w) = some k) :
    ((∃ e, decode cgb w = .error e) ∧ ¬ OpWord.FieldsFit k w) ∨
      (decode cgb w = .ok (k.instr cgb (OpWord.sel w) (OpWord.addr w) (OpWord.data w)) ∧ OpWord.FieldsFit k w) := by
  rw [decode, hk]
  dsimp only
  by_cases hr : OpWord.rsv w ≠ 0#3
  · exact .inl ⟨⟨_, if_pos hr⟩, fun h => hr h.rsv⟩
  by_cases hs : k.usesSel = false ∧ OpWord.sel w ≠ 0#1
  · exact .inl ⟨⟨_, by rw [if_neg hr, if_pos hs]⟩, fun h => hs.2 (h.sel hs.1)⟩
  by_cases ha : k.usesAddr = false ∧ OpWord.addr w ≠ 0#16
  · exact .inl ⟨⟨_, by rw [if_neg hr, if_neg hs, if_pos ha]⟩, fun h => ha.2 (h.addr ha.1)⟩
  by_cases hd : k.usesData = false ∧ OpWord.data w ≠ 0#8
  · exact .inl ⟨⟨_, by rw [if_neg hr, if_neg hs, if_neg ha, if_pos hd]⟩, fun h => hd.2 (h.data hd.1)⟩
  · refine .inr ⟨by rw [if_neg hr, if_neg hs, if_neg ha, if_neg hd], not_not.mp hr, ?_, ?_, ?_⟩
    · exact fun h => not_not.mp fun hne => hs ⟨h, hne⟩
    · exact fun h => not_not.mp fun hne => ha ⟨h, hne⟩
    · exact fun h => not_not.mp fun hne => hd ⟨h, hne⟩

/-- What the decoder answers an operation for: a word with a KIND whose fields fit. -/
theorem decode_ok_cases {cgb : Bool} {w : OpWord} {i : Instr} (h : decode cgb w = .ok i) :
    ∃ k, k.code = OpWord.kind w ∧ OpWord.FieldsFit k w ∧
      i = k.instr cgb (OpWord.sel w) (OpWord.addr w) (OpWord.data w) := by
  rcases hk : Kind.ofField (OpWord.kind w) with _ | k
  · rw [decode, hk] at h
    exact nomatch h
  · rcases decode_of_kind cgb hk with ⟨⟨e, he⟩, -⟩ | ⟨hok, hfit⟩
    · rw [he] at h
      exact nomatch h
    · rw [hok] at h
      exact ⟨k, Kind.code_of_ofField hk, hfit, (Except.ok.inj h).symm⟩

/-- The operation of a KIND exists in the mode, and its word packs the fields the KIND uses. -/
theorem Kind.instr_names (cgb : Bool) (k : Kind) (sel : BitVec 1) (a : Addr) (d : Byte) (hs : k.usesSel = false → sel = 0#1)
    (ha : k.usesAddr = false → a = 0#16) (hd : k.usesData = false → d = 0#8) :
    WellFormed cgb (k.instr cgb sel a d) = true ∧ encode (k.instr cgb sel a d) = OpWord.pack k sel a d := by
  cases k
  case rd =>
    obtain ⟨hwf, haddr⟩ := readHandler_names cgb a
    refine ⟨hwf, ?_⟩
    rw [Kind.instr, encode_readHandler_instr, haddr, hs rfl, hd rfl, OpWord.rd]
  case wr =>
    obtain ⟨hwf, haddr⟩ := writeHandler_names cgb a d
    refine ⟨hwf, ?_⟩
    rw [Kind.instr, encode_writeHandler_instr, haddr, hs rfl, OpWord.wr]
  case resolve =>
    have hdata : d.extractLsb' 4 4 ++ d.extractLsb' 0 4 = d :=
      (BitVec.extractLsb'_append_extractLsb'_eq_extractLsb' (start₁ := 0) rfl).trans BitVec.extractLsb'_eq_self
    have hsel : sel = 0#1 ∨ sel = 1#1 := by revert sel; decide
    obtain rfl := ha rfl
    rcases hsel with rfl | rfl <;> simp [Kind.instr, WellFormed, encode, hdata]
  case vrd => exact ⟨rfl, by rw [hs rfl, hd rfl]; rfl⟩
  case vwr => exact ⟨rfl, by rw [hs rfl]; rfl⟩
  case vrdb => exact ⟨rfl, by rw [hd rfl]; rfl⟩
  case tick | commit | reset => exact ⟨rfl, by rw [hs rfl, ha rfl, hd rfl]; rfl⟩

/-- Settles O2: the fields of a decoded word fit its KIND, whose operation packs them again. -/
theorem decodedWordsReencode : Obligations.DecodedWordsReencode := by
  intro cgb w i h
  obtain ⟨k, hk, hfit, rfl⟩ := decode_ok_cases h
  obtain ⟨hwf, henc⟩ := Kind.instr_names cgb k _ _ _ hfit.sel hfit.addr hfit.data
  exact ⟨hwf, henc.trans (OpWord.pack_fields hk hfit.rsv)⟩

/-- The fields R101 marks as 0 for each KIND, by the KIND's number. -/
theorem not_fieldsFit_iff (k : Kind) (w : OpWord) : ¬ OpWord.FieldsFit k w ↔
    OpWord.rsv w ≠ 0#3 ∨ (k.code.toNat ∉ [6, 7] ∧ OpWord.sel w ≠ 0#1) ∨
      (k.code.toNat ∈ [4, 5, 6, 8] ∧ OpWord.addr w ≠ 0#16) ∨
      (k.code.toNat ∈ [0, 2, 4, 5, 7, 8] ∧ OpWord.data w ≠ 0#8) := by
  have hs : k.usesSel = false ↔ k.code.toNat ∉ [6, 7] := by cases k <;> decide
  have ha : k.usesAddr = false ↔ k.code.toNat ∈ [4, 5, 6, 8] := by cases k <;> decide
  have hd : k.usesData = false ↔ k.code.toNat ∈ [0, 2, 4, 5, 7, 8] := by cases k <;> decide
  rw [← hs, ← ha, ← hd]
  constructor
  · intro h
    by_contra hall
    push Not at hall
    exact h ⟨hall.1, hall.2.1, hall.2.2.1, hall.2.2.2⟩
  · rintro (h | ⟨hk, h⟩ | ⟨hk, h⟩ | ⟨hk, h⟩) hfit
    · exact h hfit.rsv
    · exact h (hfit.sel hk)
    · exact h (hfit.addr hk)
    · exact h (hfit.data hk)

/-- Settles O3: a KIND of 9 or more names nothing; otherwise the word is refused exactly when its fields do not fit. -/
theorem refusedWordsAreThoseOfNoOperation : Obligations.RefusedWordsAreThoseOfNoOperation := by
  intro cgb w
  rcases hk : Kind.ofField (OpWord.kind w) with _ | k
  · have herr : decode cgb w = .error .reservedKind := by rw [decode, hk]
    exact iff_of_true ⟨_, herr⟩ (.inl ((Kind.ofField_eq_none_iff _).mp hk))
  · have hsmall : ¬ 9 ≤ (OpWord.kind w).toNat := by
      rw [← Kind.ofField_eq_none_iff, hk]
      exact Option.some_ne_none k
    rw [or_iff_right hsmall, ← Kind.code_of_ofField hk, ← not_fieldsFit_iff]
    rcases decode_of_kind cgb hk with ⟨herr, hfit⟩ | ⟨hok, hfit⟩
    · exact iff_of_true herr hfit
    · rw [hok]
      exact iff_of_false (fun ⟨e, he⟩ => nomatch he) (not_not.mpr hfit)

/-- Settles O4: each word is evaluated. -/
theorem specWordsDecode : Obligations.SpecWordsDecode := by
  unfold Obligations.SpecWordsDecode
  decide

/-! ### The rows by number -/

/-- The read row of R191 and R192, chosen by the number of the address. -/
theorem readHandler_eq (cgb : Bool) (a : Addr) : readHandler cgb a =
    if 0xFF04 ≤ a.toNat ∧ a.toNat ≤ 0xFF07 then .timer
    else if 0xFF10 ≤ a.toNat ∧ a.toNat ≤ 0xFF3F then .audio
    else if a.toNat ∈ [0xFF40, 0xFF42, 0xFF43, 0xFF47, 0xFF48, 0xFF49, 0xFF4A, 0xFF4B] then .lcd
    else if a.toNat = 0xFF46 then .oamDma
    else if a.toNat = 0xFF50 then .boot
    else if a.toNat = 0xFF70 then .wramBank
    else if cgb = false then .generic
    else if a.toNat = 0xFF4D then .key1
    else if a.toNat = 0xFF4F then .vbk
    else if a.toNat = 0xFF51 then .hdma1
    else if a.toNat = 0xFF52 then .hdma2
    else if a.toNat = 0xFF53 then .hdma3
    else if a.toNat = 0xFF54 then .hdma4
    else if a.toNat = 0xFF55 then .hdma5
    else if a.toNat = 0xFF68 then .bcps
    else if a.toNat = 0xFF69 then .bcpd
    else if a.toNat = 0xFF6A then .ocps
    else if a.toNat = 0xFF6B then .ocpd
    else .generic := by
  by_cases h : a.toNat < 0xFF00
  · have hne : ∀ n, 0xFF00 ≤ n → a.toNat ≠ n := by omega
    have hlt : ∀ n, 0xFF00 ≤ n → ¬ n ≤ a.toNat := by omega
    simp [readHandler_below cgb h, hne, hlt]
  · apply Addr.page_ff a (by omega)
    revert cgb; decide

/-- The write row of R191 and R192, chosen by the number of the address. -/
theorem writeHandler_eq (cgb : Bool) (a : Addr) : writeHandler cgb a =
    if 0xFF04 ≤ a.toNat ∧ a.toNat ≤ 0xFF07 then .timer
    else if 0xFF10 ≤ a.toNat ∧ a.toNat ≤ 0xFF3F then .audio
    else if a.toNat ∈ [0xFF40, 0xFF42, 0xFF43, 0xFF4A, 0xFF4B] then .lcd
    else if a.toNat ∈ [0xFF47, 0xFF48, 0xFF49] then .lcdPal
    else if a.toNat = 0xFF46 then .oamDma
    else if a.toNat = 0xFF50 then .boot
    else if a.toNat = 0xFF70 then .wramBank
    else if cgb = false then .generic
    else if a.toNat = 0xFF4D then .key1
    else if a.toNat = 0xFF4F then .vbk
    else if a.toNat = 0xFF51 then .hdma1
    else if a.toNat = 0xFF52 then .hdma2
    else if a.toNat = 0xFF53 then .hdma3
    else if a.toNat = 0xFF54 then .hdma4
    else if a.toNat = 0xFF55 then .hdma5
    else if a.toNat = 0xFF68 then .bcps
    else if a.toNat = 0xFF69 then .bcpd
    else if a.toNat = 0xFF6A then .ocps
    else if a.toNat = 0xFF6B then .ocpd
    else .generic := by
  by_cases h : a.toNat < 0xFF00
  · have hne : ∀ n, 0xFF00 ≤ n → a.toNat ≠ n := by omega
    have hlt : ∀ n, 0xFF00 ≤ n → ¬ n ≤ a.toNat := by omega
    simp [writeHandler_below cgb h, hne, hlt]
  · apply Addr.page_ff a (by omega)
    revert cgb; decide

/-- Settles O5: the rows by number, each with its operation. -/
theorem routerDecodesEveryAddress : Obligations.RouterDecodesEveryAddress := by
  intro cgb a v
  constructor
  · rw [decode_rd, readHandler_eq]
    simp only [apply_ite (ReadHandler.instr a)]
    rfl
  · rw [decode_wr, writeHandler_eq]
    simp only [apply_ite (WriteHandler.instr a v)]
    rfl

end Sys2Proof
end

section
/-! PROOFS. What an operation without a fault can change (R75-R92, R301). The operations are sorted by the port that
takes them: the eighteen bus reads are one case, each an access of the router that yields a byte or a fault. -/

namespace Sys2Proof

/-- Case distinction on the port that takes an operation: a bus read or write by its row of R191, or another KIND. -/
theorem Instr.portCases {P : Instr → Prop} (read : ∀ h a, P (ReadHandler.instr a h))
    (write : ∀ h a v, P (WriteHandler.instr a v h)) (vrd : ∀ a, P (.vrd a)) (vwr : ∀ a v, P (.vwr a v))
    (vrdb : ∀ b a, P (.vrdb b a)) (resolveBg : ∀ p c, P (.resolveBg p c)) (resolveObj : ∀ p c, P (.resolveObj p c))
    (tick : P .tick) (commit : P .commit) (reset : P .reset) (i : Instr) : P i := by
  cases i
  case rdTimer a => exact read .timer a
  case rdAudio a => exact read .audio a
  case rdLcd a => exact read .lcd a
  case rdGeneric a => exact read .generic a
  case rdOamdma => exact read .oamDma 0#16
  case rdKey1 => exact read .key1 0#16
  case rdVbk => exact read .vbk 0#16
  case rdBoot => exact read .boot 0#16
  case rdHdma1 => exact read .hdma1 0#16
  case rdHdma2 => exact read .hdma2 0#16
  case rdHdma3 => exact read .hdma3 0#16
  case rdHdma4 => exact read .hdma4 0#16
  case rdHdma5 => exact read .hdma5 0#16
  case rdBcps => exact read .bcps 0#16
  case rdBcpd => exact read .bcpd 0#16
  case rdOcps => exact read .ocps 0#16
  case rdOcpd => exact read .ocpd 0#16
  case rdWrambank => exact read .wramBank 0#16
  case wrTimer a v => exact write .timer a v
  case wrAudio a v => exact write .audio a v
  case wrLcd a v => exact write .lcd a v
  case wrLcdpal a v => exact write .lcdPal a v
  case wrGeneric a v => exact write .generic a v
  case wrOamdma v => exact write .oamDma 0#16 v
  case wrKey1 v => exact write .key1 0#16 v
  case wrVbk v => exact write .vbk 0#16 v
  case wrBoot v => exact write .boot 0#16 v
  case wrHdma1 v => exact write .hdma1 0#16 v
  case wrHdma2 v => exact write .hdma2 0#16 v
  case wrHdma3 v => exact write .hdma3 0#16 v
  case wrHdma4 v => exact write .hdma4 0#16 v
  case wrHdma5 v => exact write .hdma5 0#16 v
  case wrBcps v => exact write .bcps 0#16 v
  case wrBcpd v => exact write .bcpd 0#16 v
  case wrOcps v => exact write .ocps 0#16 v
  case wrOcpd v => exact write .ocpd 0#16 v
  case wrWrambank v => exact write .wramBank 0#16 v
  case vrd a => exact vrd a
  case vwr a v => exact vwr a v
  case vrdb b a => exact vrdb b a
  case resolveBg p c => exact resolveBg p c
  case resolveObj p c => exact resolveObj p c
  case tick => exact tick
  case commit => exact commit
  case reset => exact reset

end Sys2Proof

namespace Sys2Proof.Machine

/-! ### Bus reads -/

/-- The router's access for a read row taken at `a`. -/
def readAccess (a : Addr) : ReadHandler → State → Fetched
  | .timer => extRead .timer a
  | .audio => readAudio a
  | .lcd => extRead .lcd a
  | .oamDma => storeRead 0xFF46#16
  | .key1 => fun s => ownByte s.key1 s
  | .vbk => fun s => ownByte (vbkByte s) s
  | .boot => storeRead 0xFF50#16
  | .hdma1 => writeOnlyRead 0xFF51#16
  | .hdma2 => writeOnlyRead 0xFF52#16
  | .hdma3 => writeOnlyRead 0xFF53#16
  | .hdma4 => writeOnlyRead 0xFF54#16
  | .hdma5 => fun s => ownByte s.hdma5 s
  | .bcps => fun s => ownByte (indexByte .bg s) s
  | .bcpd => fun s => ownByte (colourByte .bg s) s
  | .ocps => fun s => ownByte (indexByte .obj s) s
  | .ocpd => fun s => ownByte (colourByte .obj s) s
  | .wramBank => extRead .wramBank 0xFF70#16
  | .generic => storeRead a

/-- A bus read, as an operation, is its row's access. -/
theorem effect_read (h : ReadHandler) (a : Addr) : effect (h.instr a) = readEffect (readAccess a h) := by
  cases h <;> rfl

/-- The router performs the access of the row it decodes. -/
theorem routerRead_eq (a : Addr) (s : State) : routerRead a s = readAccess a (readHandler s.params.cgbMode a) s := by
  unfold routerRead
  cases readHandler s.params.cgbMode a <;> rfl

theorem readAccess_spec (a : Addr) (h : ReadHandler) (s : State) : ReadSpec s (readAccess a h s) := by
  cases h
  case timer | lcd | wramBank => exact extRead_spec _ _ s
  case audio => exact readAudio_spec a s
  case oamDma | boot | generic => exact storeRead_spec _ s
  case hdma1 | hdma2 | hdma3 | hdma4 => exact writeOnlyRead_spec _ s
  case key1 | vbk | hdma5 | bcps | bcpd | ocps | ocpd => exact ownByte_spec _ s

/-! ### Operations that leave the registers alone -/

theorem setResult_busFrame (r : Option Result) (s : State) : BusFrame s (s.setResult r) := by constructor <;> rfl

theorem emit_busFrame (e : Event) (s : State) : BusFrame s (s.emit e) := by constructor <;> rfl

theorem takeReply_busFrame (s : State) : BusFrame s (takeReply s) := by constructor <;> rfl

theorem raiseFault_busFrame (f : BlockFault) (s : State) : BusFrame s (raiseFault f s) := by constructor <;> rfl

theorem effect_read_busFrame (h : ReadHandler) (a : Addr) (s : State) : BusFrame s (effect (h.instr a) s) := by
  rw [effect_read]
  exact (readAccess_spec a h s).frame.trans (setResult_busFrame _ _)

theorem extWrite_busFrame (p : Port) (a : Addr) (v : Byte) (s : State) : BusFrame s (extWrite p a v s) :=
  emit_busFrame _ s

theorem storeWrite_busFrame (a : Addr) (v : Byte) (s : State) : BusFrame s (storeWrite a v s) := by
  unfold storeWrite
  split
  · exact (takeReply_busFrame s).trans (raiseFault_busFrame _ _)
  · exact (takeReply_busFrame s).trans (extWrite_busFrame _ _ _ _)

theorem writeAudio_busFrame (a : Addr) (v : Byte) (s : State) : BusFrame s (writeAudio a v s) := by
  unfold writeAudio
  split
  · exact extWrite_busFrame _ _ _ _
  · exact BusFrame.refl s

theorem writeLcdPal_busFrame (a : Addr) (v : Byte) (s : State) : BusFrame s (writeLcdPal a v s) := by
  unfold writeLcdPal
  split
  · exact extWrite_busFrame _ _ _ _
  · exact (extWrite_busFrame _ _ _ _).trans (emit_busFrame _ _)

theorem vramPortRead_busFrame (b : Bank) (a : Addr) (s : State) : BusFrame s (vramPortRead b a s) := by
  unfold vramPortRead
  split
  · exact setResult_busFrame _ s
  · exact raiseFault_busFrame _ s

theorem vramPortWrite_busFrame (a : Addr) (v : Byte) (s : State) : BusFrame s (vramPortWrite a v s) := by
  unfold vramPortWrite
  split
  · exact writeVram_frame _ _ _ s
  · exact raiseFault_busFrame _ s

theorem resolveColour_busFrame (m : PalMem) (p c : BitVec 4) (s : State) : BusFrame s (resolveColour m p c s) := by
  unfold resolveColour
  split
  · exact raiseFault_busFrame _ s
  · exact setResult_busFrame _ s

/-- WR BOOT changes at most the boot-state collaborator's flag. -/
theorem writeBoot_busFrame (v : Byte) (s : State) :
    BusFrame (s.setBootRomMapped (writeBoot v s).bootRomMapped) (writeBoot v s) := by
  unfold writeBoot
  split
  · constructor <;> rfl
  · have h := storeWrite_busFrame 0xFF50#16 v s
    exact { h with bootRomMapped := rfl }

/-! ### Operations that write registers -/

/-- What an operation does to the registers: nothing, or the update of its own rule. -/
inductive RegisterStep : Instr → State → State → Prop
  | keep {i s t} (h : BusFrame s t) : RegisterStep i s t
  | key1 (v s) : RegisterStep (.wrKey1 v) s (s.setKey1 v)
  | vbk (v s) : RegisterStep (.wrVbk v) s (writeVbk v s)
  | boot (v s) : RegisterStep (.wrBoot v) s (writeBoot v s)
  | hdma1 (v s) : RegisterStep (.wrHdma1 v) s (s.setHdma1 v)
  | hdma2 (v s) : RegisterStep (.wrHdma2 v) s (s.setHdma2 v)
  | hdma3 (v s) : RegisterStep (.wrHdma3 v) s (s.setHdma3 v)
  | hdma4 (v s) : RegisterStep (.wrHdma4 v) s (s.setHdma4 v)
  | hdma5 (v s) : RegisterStep (.wrHdma5 v) s (writeHdma5 v s)
  | bcps (v s) : RegisterStep (.wrBcps v) s (s.setPalIndex .bg v)
  | ocps (v s) : RegisterStep (.wrOcps v) s (s.setPalIndex .obj v)
  | bcpd (v s) : RegisterStep (.wrBcpd v) s (writeColour .bg v s)
  | ocpd (v s) : RegisterStep (.wrOcpd v) s (writeColour .obj v s)
  | tick (s) : RegisterStep .tick s (hblankTick s)
  | commit (s) : RegisterStep .commit s (commitSwitch s)
  | reset (s) : RegisterStep .reset s (resetBlock s)

theorem effect_registerStep (i : Instr) (s : State) : RegisterStep i s (effect i s) := by
  cases i using Instr.portCases with
  | read h a => exact .keep (effect_read_busFrame h a s)
  | write h a v =>
    cases h
    case timer | lcd | oamDma | wramBank => exact .keep (extWrite_busFrame _ _ v s)
    case audio => exact .keep (writeAudio_busFrame a v s)
    case lcdPal => exact .keep (writeLcdPal_busFrame a v s)
    case generic => exact .keep (storeWrite_busFrame a v s)
    case key1 => exact .key1 v s
    case vbk => exact .vbk v s
    case boot => exact .boot v s
    case hdma1 => exact .hdma1 v s
    case hdma2 => exact .hdma2 v s
    case hdma3 => exact .hdma3 v s
    case hdma4 => exact .hdma4 v s
    case hdma5 => exact .hdma5 v s
    case bcps => exact .bcps v s
    case ocps => exact .ocps v s
    case bcpd => exact .bcpd v s
    case ocpd => exact .ocpd v s
  | vrd a => exact .keep (vramPortRead_busFrame _ a s)
  | vwr a v => exact .keep (vramPortWrite_busFrame a v s)
  | vrdb b a => exact .keep (vramPortRead_busFrame b a s)
  | resolveBg p c => exact .keep (resolveColour_busFrame .bg p c s)
  | resolveObj p c => exact .keep (resolveColour_busFrame .obj p c s)
  | tick => exact .tick s
  | commit => exact .commit s
  | reset => exact .reset s

/-- What an operation answers: with a fault set nothing but the result has changed, else its registers took their step. -/
theorem exec_registerStep {i : Instr} {s t : State} (h : exec i s = .next t) :
    t = s.setResult none ∨ RegisterStep i (s.setResult none) t := by
  rcases exec_cases h with ⟨-, rfl⟩ | ⟨-, rfl⟩
  · exact .inl rfl
  · exact .inr (effect_registerStep i _)

/-! ### The engine's registers (R240, R250-R259) -/

theorem writeHdma5_idle_bitSet {s : State} {v : Byte} (ha : s.transferActive = false) (hv : v.getLsbD 7 = true) :
    writeHdma5 v s = startPaced v s := by
  rw [writeHdma5, hdmaMode, if_neg (Bool.eq_false_iff.mp ha), if_pos hv]

theorem writeHdma5_idle_bitClear {s : State} {v : Byte} (ha : s.transferActive = false) (hv : v.getLsbD 7 = false) :
    writeHdma5 v s = generalPurpose v s := by
  rw [writeHdma5, hdmaMode, if_neg (Bool.eq_false_iff.mp ha), if_neg (Bool.eq_false_iff.mp hv)]

/-- A general-purpose transfer's copy (R251). -/
def generalCopy (v : Byte) (s : State) : State :=
  copyBytes (hdmaLen v) (hdmaSrc s.hdma1 s.hdma2) (hdmaDst s.hdma3 s.hdma4) s

theorem generalPurpose_eq (v : Byte) (s : State) : generalPurpose v s = afterCopy setHdmaDone (generalCopy v s) := rfl

theorem generalCopy_frame (v : Byte) (s : State) : BusFrame s (generalCopy v s) := generalPurpose_copy_frame v s

theorem hblankTick_idle {s : State} (h : s.transferActive = false) : hblankTick s = s :=
  if_neg (Bool.eq_false_iff.mp h)

/-- The registers no DMA operation writes. -/
structure EngineFrame (s t : State) : Prop where
  params : t.params = s.params
  vbk : t.vbk = s.vbk
  bcps : t.bcps = s.bcps
  ocps : t.ocps = s.ocps
  bgpal : t.bgpal = s.bgpal
  objpal : t.objpal = s.objpal
  key1 : t.key1 = s.key1
  doubleSpeed : t.doubleSpeed = s.doubleSpeed
  bootRomMapped : t.bootRomMapped = s.bootRomMapped
  pending : t.pending = s.pending
  refusals : t.refusals = s.refusals

theorem EngineFrame.trans {s t u : State} (h : EngineFrame s t) (k : EngineFrame t u) : EngineFrame s u where
  params := k.params.trans h.params
  vbk := k.vbk.trans h.vbk
  bcps := k.bcps.trans h.bcps
  ocps := k.ocps.trans h.ocps
  bgpal := k.bgpal.trans h.bgpal
  objpal := k.objpal.trans h.objpal
  key1 := k.key1.trans h.key1
  doubleSpeed := k.doubleSpeed.trans h.doubleSpeed
  bootRomMapped := k.bootRomMapped.trans h.bootRomMapped
  pending := k.pending.trans h.pending
  refusals := k.refusals.trans h.refusals

theorem BusFrame.engine {s t : State} (h : BusFrame s t) : EngineFrame s t :=
  ⟨h.params, h.vbk, h.bcps, h.ocps, h.bgpal, h.objpal, h.key1, h.doubleSpeed, h.bootRomMapped, h.pending, h.refusals⟩

theorem afterCopy_engineFrame {rest : State → State} (hrest : ∀ s, EngineFrame s (rest s)) (s : State) :
    EngineFrame s (afterCopy rest s) := by
  unfold afterCopy
  split
  · exact (BusFrame.refl s).engine
  · exact hrest s

theorem countDown_engineFrame (s : State) : EngineFrame s (countDown s) := by
  unfold countDown
  split <;> constructor <;> rfl

theorem setHdmaDone_engineFrame (s : State) : EngineFrame s (setHdmaDone s) := by constructor <;> rfl

theorem advanceCursors_engineFrame (s : State) : EngineFrame s (advanceCursors s) := by constructor <;> rfl

theorem mirrorCursors_engineFrame (s : State) : EngineFrame s (mirrorCursors s) := by constructor <;> rfl

/-- The registers' step after a chunk that met no fault (R257-R259). -/
def chunkDone (s : State) : State := countDown (mirrorCursors (advanceCursors s))

theorem chunkDone_engineFrame (s : State) : EngineFrame s (chunkDone s) :=
  ((advanceCursors_engineFrame s).trans (mirrorCursors_engineFrame _)).trans (countDown_engineFrame _)

theorem hblankTick_eq {s : State} (h : s.transferActive = true) :
    hblankTick s = afterCopy chunkDone (copyChunk s) := hblankTick_active h

theorem hblankTick_engineFrame (s : State) : EngineFrame s (hblankTick s) := by
  rcases ha : s.transferActive with _ | _
  · rw [hblankTick_idle ha]
    exact (BusFrame.refl s).engine
  · rw [hblankTick_eq ha]
    exact (copyChunk_frame s).engine.trans (afterCopy_engineFrame chunkDone_engineFrame _)

theorem writeHdma5_engineFrame (v : Byte) (s : State) : EngineFrame s (writeHdma5 v s) := by
  rcases ha : s.transferActive with _ | _ <;> rcases hv : v.getLsbD 7 with _ | _
  · rw [writeHdma5_idle_bitClear ha hv, generalPurpose_eq]
    exact (generalCopy_frame v s).engine.trans (afterCopy_engineFrame setHdmaDone_engineFrame _)
  · rw [writeHdma5_idle_bitSet ha hv]
    constructor <;> rfl
  · rw [writeHdma5_active_bitClear ha hv]
    constructor <;> rfl
  · rw [writeHdma5_active_bitSet ha hv]
    constructor <;> rfl

end Sys2Proof.Machine
end

section
/-! PROOFS. The output events of an operation (R10, R90-R92) and what becomes of VRAM. Outside VWR, the engine and RESET an
operation leaves both banks alone, and its events are listed here; a copy drives one event per byte written. -/

namespace Sys2Proof.Machine

/-- The two banks are those of `s`, and the events `es`, newest first, are the ones added. -/
structure Emits (es : List Event) (s t : State) : Prop where
  vram0 : t.vram0 = s.vram0
  vram1 : t.vram1 = s.vram1
  events : t.events = es ++ s.events

theorem Emits.none (s : State) : Emits [] s s := ⟨rfl, rfl, rfl⟩

theorem Emits.trans {es es' : List Event} {s t u : State} (h : Emits es s t) (k : Emits es' t u) : Emits (es' ++ es) s u :=
  ⟨k.vram0.trans h.vram0, k.vram1.trans h.vram1, by rw [k.events, h.events, List.append_assoc]⟩

theorem Emits.vram {es : List Event} {s t : State} (h : Emits es s t) (b : Bank) : t.vram b = s.vram b := by
  unfold State.vram; rw [h.vram0, h.vram1]

theorem Emits.vramWf {es : List Event} {s t : State} (h : Emits es s t) (hs : s.VramWf) : t.VramWf := by
  unfold State.VramWf; rw [h.vram0, h.vram1]; exact hs

/-- The events of a write that the generic store may fail (R209, R210). -/
def storeOutputs (a : Addr) (v : Byte) (s : State) : List Event :=
  if (nextReply s).fails then [] else [.extWrite .store a v]

/-- The events of WR BOOT: the unmapping, or those of the store (R204). -/
def bootOutputs (v : Byte) (s : State) : List Event :=
  if s.bootRomMapped = true ∧ (v = 0x01#8 ∨ v = 0x11#8) then [.bootRomUnmap] else storeOutputs 0xFF50#16 v s

/-- The events of a bus write, newest first, but for the HDMA5 command. -/
def writeOutputs (a : Addr) (v : Byte) (s : State) : WriteHandler → List Event
  | .timer => [.extWrite .timer a v]
  | .audio => if s.params.audioEnabled then [.extWrite .audio a v] else []
  | .lcd => [.extWrite .lcd a v]
  | .lcdPal => if s.params.cgbMode then [.extWrite .lcd a v] else [.cacheClear, .extWrite .lcd a v]
  | .oamDma => [.extWrite .oamDma 0xFF46#16 v]
  | .boot => bootOutputs v s
  | .wramBank => [.extWrite .wramBank 0xFF70#16 v]
  | .generic => storeOutputs a v s
  | .bcpd | .ocpd => [.cacheClear]
  | .key1 | .vbk | .hdma1 | .hdma2 | .hdma3 | .hdma4 | .hdma5 | .bcps | .ocps => []

theorem extWrite_emits (p : Port) (a : Addr) (v : Byte) (s : State) : Emits [.extWrite p a v] s (extWrite p a v s) :=
  ⟨rfl, rfl, rfl⟩

theorem storeWrite_emits (a : Addr) (v : Byte) (s : State) : Emits (storeOutputs a v s) s (storeWrite a v s) := by
  unfold storeWrite storeOutputs
  split <;> constructor <;> rfl

theorem writeBoot_emits (v : Byte) (s : State) : Emits (bootOutputs v s) s (writeBoot v s) := by
  unfold writeBoot bootOutputs
  split
  · constructor <;> rfl
  · exact storeWrite_emits 0xFF50#16 v s

/-- A bus write but the HDMA5 command leaves VRAM alone and drives the events listed. -/
theorem effect_write_emits {h : WriteHandler} (hne : h ≠ .hdma5) (a : Addr) (v : Byte) (s : State) :
    Emits (writeOutputs a v s h) s (effect (h.instr a v) s) := by
  cases h
  case timer | lcd | oamDma | wramBank => exact extWrite_emits _ _ v s
  case audio =>
    simp only [writeOutputs, WriteHandler.instr, effect, writeAudio]
    split
    · exact extWrite_emits .audio a v s
    · exact Emits.none s
  case lcdPal =>
    simp only [writeOutputs, WriteHandler.instr, effect, writeLcdPal]
    split <;> constructor <;> rfl
  case boot => exact writeBoot_emits v s
  case generic => exact storeWrite_emits a v s
  case hdma5 => exact absurd rfl hne
  case key1 | vbk | hdma1 | hdma2 | hdma3 | hdma4 | bcps | ocps | bcpd | ocpd => constructor <;> rfl

theorem effect_read_emits (h : ReadHandler) (a : Addr) (s : State) : Emits [] s (effect (h.instr a) s) := by
  have hr := readAccess_spec a h s
  rw [effect_read]
  exact ⟨hr.vram0, hr.vram1, hr.events⟩

theorem vramPortRead_emits (b : Bank) (a : Addr) (s : State) : Emits [] s (vramPortRead b a s) := by
  unfold vramPortRead
  split <;> constructor <;> rfl

theorem resolveColour_emits (m : PalMem) (p c : BitVec 4) (s : State) : Emits [] s (resolveColour m p c s) := by
  unfold resolveColour
  split <;> constructor <;> rfl

theorem commitSwitch_emits (s : State) : Emits [] s (commitSwitch s) := by
  unfold commitSwitch
  split <;> constructor <;> rfl

/-- VWR outside the window adds nothing; inside it writes one byte of the active bank. -/
theorem vramPortWrite_out {a : Addr} (ha : inVram a = false) (v : Byte) (s : State) :
    vramPortWrite a v s = raiseFault (.vramRange a) s := if_neg (Bool.eq_false_iff.mp ha)

theorem vramPortWrite_in {a : Addr} (ha : inVram a = true) (v : Byte) (s : State) :
    vramPortWrite a v s = writeVram s.vbk a v s := if_pos ha

/-! ### After a copy -/

theorem countDown_emits (s : State) : Emits [] s (countDown s) := by
  unfold countDown
  split <;> constructor <;> rfl

theorem advanceCursors_emits (s : State) : Emits [] s (advanceCursors s) := ⟨rfl, rfl, rfl⟩

theorem mirrorCursors_emits (s : State) : Emits [] s (mirrorCursors s) := ⟨rfl, rfl, rfl⟩

theorem chunkDone_emits (s : State) : Emits [] s (chunkDone s) :=
  ((advanceCursors_emits s).trans (mirrorCursors_emits _)).trans (countDown_emits _)

theorem setHdmaDone_emits (s : State) : Emits [] s (setHdmaDone s) := ⟨rfl, rfl, rfl⟩

theorem afterCopy_emits {rest : State → State} (hrest : ∀ s, Emits [] s (rest s)) (s : State) :
    Emits [] s (afterCopy rest s) := by
  unfold afterCopy
  split
  · exact Emits.none s
  · exact hrest s

/-- WR HDMA5 while Idle with v[7] = 0 is a copy from HdmaSrc to HdmaDst (R251). -/
theorem copyOf_wrHdma5_idle {v : Byte} {s : State} (ha : s.transferActive = false) (hv : v.getLsbD 7 = false) :
    copyOf (.wrHdma5 v) s = some ⟨hdmaSrc s.hdma1 s.hdma2, hdmaDst s.hdma3 s.hdma4, hdmaLen v⟩ := by
  rw [copyOf, hdmaMode, ha, hv]
  rfl

/-- TICK while Active is a copy of a chunk (R256). -/
theorem copyOf_tick_active {s : State} (ha : s.transferActive = true) :
    copyOf .tick s = some ⟨s.curSrc &&& 0xFFF0#16, 0x8000#16 ||| (s.curDst &&& 0x1FF0#16), 16⟩ := if_pos ha

/-- TICK and WR HDMA5 leave VRAM and the events as they are, or as the copy `copyOf` names leaves them. -/
theorem engine_emits {i : Instr} (hm : mayCopy i) (s : State) :
    (copyOf i s = none ∧ Emits [] s (effect i s)) ∨
      ∃ c, copyOf i s = some c ∧ Emits [] (copyBytes c.len c.src c.dst s) (effect i s) := by
  rcases hm with rfl | ⟨v, rfl⟩
  · rcases ha : s.transferActive with _ | _
    · refine .inl ⟨by simp [copyOf, ha], ?_⟩
      rw [effect, hblankTick_idle ha]
      exact Emits.none s
    · refine .inr ⟨_, copyOf_tick_active ha, ?_⟩
      rw [effect, hblankTick_eq ha]
      exact afterCopy_emits chunkDone_emits (copyChunk s)
  · rw [effect]
    rcases ha : s.transferActive with _ | _ <;> rcases hv : v.getLsbD 7 with _ | _
    · refine .inr ⟨_, copyOf_wrHdma5_idle ha hv, ?_⟩
      rw [writeHdma5_idle_bitClear ha hv, generalPurpose_eq]
      exact afterCopy_emits setHdmaDone_emits (generalCopy v s)
    · refine .inl ⟨by rw [copyOf, hdmaMode, hv, Bool.or_true, if_pos rfl], ?_⟩
      rw [writeHdma5_idle_bitSet ha hv]
      constructor <;> rfl
    · refine .inl ⟨by simp [copyOf, ha], ?_⟩
      rw [writeHdma5_active_bitClear ha hv]
      constructor <;> rfl
    · refine .inl ⟨by simp [copyOf, ha], ?_⟩
      rw [writeHdma5_active_bitSet ha hv]
      constructor <;> rfl

/-- Where a copy of the engine writes (R82): from 0x8000 up, and no farther than 0xA7FF. -/
theorem copyOf_bound {i : Instr} {s : State} {c : Transfer} (h : copyOf i s = some c) :
    0x8000 ≤ c.dst.toNat ∧ c.dst.toNat + c.len ≤ 0xA800 := by
  cases i <;> simp only [copyOf, reduceCtorEq] at h
  case wrHdma5 v =>
    split at h
    · exact nomatch h
    · obtain rfl := Option.some.inj h
      exact ⟨(hdmaDst_bound _ _).1, generalPurpose_bound _ _ v⟩
  case tick =>
    split at h
    · obtain rfl := Option.some.inj h
      refine ⟨?_, chunk_bound _⟩
      rw [BitVec.toNat_or]
      exact Nat.left_le_or
    · exact nomatch h

theorem engine_vramWf {i : Instr} (hm : mayCopy i) {s : State} (hs : s.VramWf) : (effect i s).VramWf := by
  rcases engine_emits hm s with ⟨-, h⟩ | ⟨c, hc, h⟩
  · exact h.vramWf hs
  · exact h.vramWf (copyBytes_vramWf c.len c.src c.dst hs (copyOf_bound hc).2)

/-- Every operation but RESET keeps both banks in canonical form. -/
theorem effect_vramWf {i : Instr} (hi : i ≠ .reset) {s : State} (hs : s.VramWf) : (effect i s).VramWf := by
  induction i using Instr.portCases with
  | read h a => exact (effect_read_emits h a s).vramWf hs
  | write h a v =>
    by_cases hh : h = .hdma5
    · subst hh
      exact engine_vramWf (.inr ⟨v, rfl⟩) hs
    · exact (effect_write_emits hh a v s).vramWf hs
  | vrd a => exact (vramPortRead_emits _ a s).vramWf hs
  | vwr a v =>
    rw [effect]
    rcases ha : inVram a with _ | _
    · rw [vramPortWrite_out ha]
      exact hs
    · rw [vramPortWrite_in ha]
      exact writeVram_wf hs _ ha v
  | vrdb b a => exact (vramPortRead_emits b a s).vramWf hs
  | resolveBg p c => exact (resolveColour_emits .bg p c s).vramWf hs
  | resolveObj p c => exact (resolveColour_emits .obj p c s).vramWf hs
  | tick => exact engine_vramWf (.inl rfl) hs
  | commit => exact (commitSwitch_emits s).vramWf hs
  | reset => exact absurd rfl hi

end Sys2Proof.Machine
end

section
/-! PROOFS. The invariant of R49 and R262 (O55, O56). Outside the engine no operation but RESET touches what the invariant
speaks of; the engine's cursors stay aligned and in the window because every step of them is by 16. -/

namespace Sys2Proof.Machine

/-! ### Cursors -/

theorem and_lowNibble_eq_zero_iff (a : Addr) : a &&& 0x000F#16 = 0#16 ↔ a.toNat % 16 = 0 := by
  have hmask : (a &&& 0x000F#16).toNat = a.toNat % 16 := by
    rw [BitVec.toNat_and]
    exact Nat.and_two_pow_sub_one_eq_mod _ 4
  rw [← BitVec.toNat_inj, hmask, BitVec.toNat_ofNat, Nat.zero_mod]

theorem hdmaSrc_aligned (h1 h2 : Byte) : hdmaSrc h1 h2 &&& 0x000F#16 = 0#16 := by
  rw [and_lowNibble_eq_zero_iff, hdmaSrc_toNat]
  omega

theorem toNat_add_16 (a : Addr) : (a + 16#16).toNat = (a.toNat + 16) % 65536 := BitVec.toNat_add a 16#16

theorem nextSrc_aligned {a : Addr} (h : a &&& 0x000F#16 = 0#16) : nextSrc a &&& 0x000F#16 = 0#16 := by
  unfold nextSrc
  split
  · rfl
  · rw [and_lowNibble_eq_zero_iff] at h ⊢
    rw [toNat_add_16]
    omega

/-- The destination cursor as R49 (b) has it: a multiple of 16 in 0x8000..0x9FF0. -/
def InDstWindow (a : Addr) : Prop := a &&& 0x000F#16 = 0#16 ∧ 0x8000#16 ≤ a ∧ a ≤ 0x9FF0#16

theorem inDstWindow_iff (a : Addr) : InDstWindow a ↔ a.toNat % 16 = 0 ∧ 0x8000 ≤ a.toNat ∧ a.toNat ≤ 0x9FF0 := by
  rw [InDstWindow, and_lowNibble_eq_zero_iff, BitVec.le_def, BitVec.le_def]
  rfl

theorem hdmaDst_inDstWindow (h3 h4 : Byte) : InDstWindow (hdmaDst h3 h4) := by
  rw [inDstWindow_iff, hdmaDst_toNat]
  omega

theorem nextDst_inDstWindow {a : Addr} (h : InDstWindow a) : InDstWindow (nextDst a) := by
  unfold nextDst
  split
  case isTrue => exact ⟨rfl, by decide⟩
  case isFalse hne =>
    rw [inDstWindow_iff] at h ⊢
    have hlast : (a + 16#16).toNat ≠ 0xA000 := fun he => hne (BitVec.eq_of_toNat_eq he)
    rw [toNat_add_16] at hlast ⊢
    omega

/-! ### The invariant's parts -/

/-- What the invariant says of the engine's registers (R49 (a), (b), (e), R262). -/
structure EngineInv (s : State) : Prop where
  idle_bit : s.hdma5.getLsbD 7 = !s.transferActive
  src_aligned : s.transferActive = true → s.curSrc &&& 0x000F#16 = 0#16
  dst_window : s.transferActive = true → InDstWindow s.curDst
  mono_idle : s.params.cgbMode = false → s.transferActive = false

theorem inv_iff (s : State) : s.Inv ↔
    EngineInv s ∧ s.VramWf ∧ Memory.wf s.params.resetVram0 = true ∧ Memory.wf s.params.resetVram1 = true := by
  constructor
  · intro h
    exact ⟨⟨h.idle_bit, h.src_aligned, fun ha => ⟨h.dst_aligned ha, h.dst_window ha⟩, h.mono_idle⟩,
      ⟨h.vram0_wf, h.vram1_wf⟩, h.resetVram0_wf, h.resetVram1_wf⟩
  · rintro ⟨he, hv, h0, h1⟩
    exact ⟨he.idle_bit, he.src_aligned, fun ha => (he.dst_window ha).1, fun ha => (he.dst_window ha).2, he.mono_idle,
      hv.1, hv.2, h0, h1⟩

theorem State.Inv.engine {s : State} (h : s.Inv) : EngineInv s := ((inv_iff s).mp h).1

theorem State.Inv.vramWf {s : State} (h : s.Inv) : s.VramWf := ⟨h.vram0_wf, h.vram1_wf⟩

theorem State.Inv.setResult {s : State} (h : s.Inv) (r : Option Result) : (s.setResult r).Inv :=
  ⟨h.1, h.2, h.3, h.4, h.5, h.6, h.7, h.8, h.9⟩

theorem State.Inv.setPending {s : State} (h : s.Inv) (ws : List OpWord) : (s.setPending ws).Inv :=
  ⟨h.1, h.2, h.3, h.4, h.5, h.6, h.7, h.8, h.9⟩

theorem BusFrame.engineInv {s t : State} (h : BusFrame s t) (hs : EngineInv s) : EngineInv t := by
  constructor
  · rw [h.hdma5, h.transferActive]; exact hs.idle_bit
  · rw [h.curSrc, h.transferActive]; exact hs.src_aligned
  · rw [h.curDst, h.transferActive]; exact hs.dst_window
  · rw [h.params, h.transferActive]; exact hs.mono_idle

/-- Idle with HDMA5 bit 7 set is all the invariant asks of the engine while no transfer is active. -/
theorem EngineInv.of_idle {s : State} (ha : s.transferActive = false) (h5 : s.hdma5.getLsbD 7 = true) : EngineInv s where
  idle_bit := by rw [ha, h5]; rfl
  src_aligned h := by rw [ha] at h; exact nomatch h
  dst_window h := by rw [ha] at h; exact nomatch h
  mono_idle _ := ha

/-! ### The engine's steps -/

theorem hdmaLow7_of_bit7_clear {v : Byte} (h : v.getLsbD 7 = false) : hdmaLow7 v = v := by
  revert v; decide

theorem idleByte_bit7 : (0xFF#8 : Byte).getLsbD 7 = true := rfl

theorem terminatedByte_bit7 (v : Byte) : (terminatedByte v).getLsbD 7 = true := by
  revert v; decide

/-- Counting down from a nonzero count leaves bit 7 clear. -/
theorem sub_one_bit7 {v : Byte} (h : v.getLsbD 7 = false) (h0 : v ≠ 0#8) : (v - 1#8).getLsbD 7 = false := by
  revert v; decide

theorem countDown_engineInv {s : State} (h : EngineInv s) (ha : s.transferActive = true) : EngineInv (countDown s) := by
  have h5 : s.hdma5.getLsbD 7 = false := by rw [h.idle_bit, ha]; rfl
  unfold countDown
  split
  case isTrue => exact EngineInv.of_idle rfl idleByte_bit7
  case isFalse h0 =>
    rw [hdmaLow7_of_bit7_clear h5] at h0
    exact ⟨by rw [State.setHdma5_hdma5, State.setHdma5_transferActive, ha, sub_one_bit7 h5 h0]; rfl, h.src_aligned,
      h.dst_window, h.mono_idle⟩

theorem advanceCursors_engineInv {s : State} (h : EngineInv s) : EngineInv (advanceCursors s) :=
  ⟨h.idle_bit, fun ha => nextSrc_aligned (h.src_aligned ha), fun ha => nextDst_inDstWindow (h.dst_window ha), h.mono_idle⟩

theorem mirrorCursors_engineInv {s : State} (h : EngineInv s) : EngineInv (mirrorCursors s) :=
  ⟨h.idle_bit, h.src_aligned, h.dst_window, h.mono_idle⟩

theorem chunkDone_engineInv {s : State} (h : EngineInv s) (ha : s.transferActive = true) : EngineInv (chunkDone s) :=
  countDown_engineInv (mirrorCursors_engineInv (advanceCursors_engineInv h)) (by simp [mirrorCursors, advanceCursors, ha])

theorem hblankTick_engineInv {s : State} (h : EngineInv s) : EngineInv (hblankTick s) := by
  rcases ha : s.transferActive with _ | _
  · rw [hblankTick_idle ha]
    exact h
  · have hcopy : EngineInv (copyChunk s) := (copyChunk_frame s).engineInv h
    rw [hblankTick_eq ha, afterCopy]
    split
    · exact hcopy
    · exact chunkDone_engineInv hcopy ((copyChunk_frame s).transferActive.trans ha)

theorem setHdmaDone_engineInv {s : State} (ha : s.transferActive = false) : EngineInv (setHdmaDone s) :=
  EngineInv.of_idle ha idleByte_bit7

theorem startPaced_engineInv {s : State} (v : Byte) (hc : s.params.cgbMode = true) : EngineInv (startPaced v s) where
  idle_bit := hdmaLow7_bit7 v
  src_aligned _ := hdmaSrc_aligned _ _
  dst_window _ := hdmaDst_inDstWindow _ _
  mono_idle hm := nomatch hc.symm.trans hm

theorem updateCount_engineInv {s : State} (v : Byte) (h : EngineInv s) (ha : s.transferActive = true) :
    EngineInv (updateCount v s) where
  idle_bit := (hdmaLow7_bit7 v).trans (congrArg not ha).symm
  src_aligned := h.src_aligned
  dst_window := h.dst_window
  mono_idle := h.mono_idle

/-- The HDMA5 command, which exists in colour mode only, keeps the engine's part. -/
theorem writeHdma5_engineInv {s : State} (v : Byte) (h : EngineInv s) (hc : s.params.cgbMode = true) :
    EngineInv (writeHdma5 v s) := by
  rcases ha : s.transferActive with _ | _ <;> rcases hv : v.getLsbD 7 with _ | _
  · rw [writeHdma5_idle_bitClear ha hv, generalPurpose_eq, afterCopy]
    split
    · exact (generalCopy_frame v s).engineInv h
    · exact setHdmaDone_engineInv ((generalCopy_frame v s).transferActive.trans ha)
  · rw [writeHdma5_idle_bitSet ha hv]
    exact startPaced_engineInv v hc
  · rw [writeHdma5_active_bitClear ha hv]
    exact EngineInv.of_idle rfl (terminatedByte_bit7 _)
  · rw [writeHdma5_active_bitSet ha hv]
    exact updateCount_engineInv v h ha

/-! ### Every operation of the mode keeps the invariant -/

theorem RegisterStep.engineInv {i : Instr} {s t : State} (hstep : RegisterStep i s t) (hs : EngineInv s)
    (hi : WellFormed s.params.cgbMode i = true) : EngineInv t := by
  cases hstep
  case keep h => exact h.engineInv hs
  case boot v => exact (writeBoot_busFrame v s).engineInv ⟨hs.1, hs.2, hs.3, hs.4⟩
  case hdma5 v => exact writeHdma5_engineInv v hs hi
  case tick => exact hblankTick_engineInv hs
  case commit =>
    unfold commitSwitch
    split <;> exact ⟨hs.1, hs.2, hs.3, hs.4⟩
  case reset => exact EngineInv.of_idle rfl idleByte_bit7
  case key1 | vbk | hdma1 | hdma2 | hdma3 | hdma4 | bcps | ocps | bcpd | ocpd => exact ⟨hs.1, hs.2, hs.3, hs.4⟩

/-- No operation changes the parameters (R7). -/
theorem RegisterStep.params {i : Instr} {s t : State} (hstep : RegisterStep i s t) : t.params = s.params := by
  cases hstep
  case keep h => exact h.params
  case boot v => exact (writeBoot_busFrame v s).params
  case hdma5 v => exact (writeHdma5_engineFrame v s).params
  case tick => exact (hblankTick_engineFrame s).params
  case commit =>
    unfold commitSwitch
    split <;> rfl
  case key1 | vbk | hdma1 | hdma2 | hdma3 | hdma4 | bcps | ocps | bcpd | ocpd | reset => rfl

theorem effect_inv {i : Instr} {s : State} (hs : s.Inv) (hi : WellFormed s.params.cgbMode i = true) :
    (effect i s).Inv := by
  have hstep := effect_registerStep i s
  have hvram : (effect i s).VramWf := by
    by_cases hreset : i = .reset
    · subst hreset
      exact ⟨hs.resetVram0_wf, hs.resetVram1_wf⟩
    · exact effect_vramWf hreset hs.vramWf
  rw [inv_iff, hstep.params]
  exact ⟨hstep.engineInv hs.engine hi, hvram, hs.resetVram0_wf, hs.resetVram1_wf⟩

theorem exec_inv {i : Instr} {s t : State} (hs : s.Inv) (hi : WellFormed s.params.cgbMode i = true)
    (h : exec i s = .next t) : t.Inv := by
  rcases exec_cases h with ⟨-, rfl⟩ | ⟨-, rfl⟩
  · exact hs.setResult none
  · exact effect_inv (hs.setResult none) hi

/-- Settles O55: a refused word changes nothing the invariant speaks of, and a decoded operation exists in the mode. -/
theorem everyStepKeepsTheInvariant : Obligations.EveryStepKeepsTheInvariant := by
  intro s t hs h
  obtain ⟨w, rest, -, ⟨e, -, rfl⟩ | ⟨i, hi, hexec⟩⟩ := step_cases h
  · exact ⟨hs.1, hs.2, hs.3, hs.4, hs.5, hs.6, hs.7, hs.8, hs.9⟩
  · exact exec_inv (hs.setPending rest) (decodedWordsReencode _ w i hi).1 hexec

/-- Settles O56: at the start the controller is Idle, HDMA5 is 0xFF and the banks are empty. -/
theorem resetStateMeetsTheInvariant : Obligations.ResetStateMeetsTheInvariant :=
  (inv_iff _).mpr ⟨EngineInv.of_idle rfl rfl, ⟨rfl, rfl⟩, rfl, rfl⟩

end Sys2Proof.Machine
end

section
/-! PROOFS. One step (R3, R102, R109, R301): O6, O7 and O10. -/

namespace Sys2Proof.Machine

theorem step_of_decode_ok {s : State} {w : OpWord} {rest : List OpWord} {i : Instr} (hp : s.pending = w :: rest)
    (hd : decode s.params.cgbMode w = .ok i) : step s = exec i (s.setPending rest) := by
  simp only [step, fetch, hp, State.setPending_params, hd]

theorem step_of_decode_error {s : State} {w : OpWord} {rest : List OpWord} {e : DecodeError} (hp : s.pending = w :: rest)
    (hd : decode s.params.cgbMode w = .error e) : step s = .next (refuseWord w (s.setPending rest)) := by
  simp only [step, fetch, hp, State.setPending_params, hd]

/-- Settles O6: the fetched word's operation runs on the state without that word. -/
theorem stepPerformsTheDecodedOperation : Obligations.StepPerformsTheDecodedOperation :=
  fun _ _ _ _ hp hd => step_of_decode_ok hp hd

/-- Settles O7: `refuseWord` records the word and clears the result. -/
theorem refusedWordLeavesTheBlockAlone : Obligations.RefusedWordLeavesTheBlockAlone :=
  fun _ _ _ _ hp hd => step_of_decode_error hp hd

/-- Settles O10: the frame of R301 around every operation. -/
theorem faultedBlockIgnoresEveryOperation : Obligations.FaultedBlockIgnoresEveryOperation := by
  intro i s hf
  rw [exec_eq, operation_faulted _ (Option.isSome_iff_ne_none.mpr hf)]
  rfl

end Sys2Proof.Machine
end

section
/-! PROOFS. Bit 6 of the index registers is never observable (R156; O27). An effect is blind to the bit when it gives the
same state, up to that bit, from a state and from its image under `forgetBit6`. All but the index and data-port writes and
RESET even commute with `forgetBit6`, the copy loop by induction. -/

namespace Sys2Proof.Machine

/-- The effect does not see bit 6 of the index registers. -/
def BlindToBit6 (f : State → State) : Prop := ∀ s, (f s.forgetBit6).forgetBit6 = (f s).forgetBit6

/-- The effect leaves the index registers alone and does not see bit 6 of them. -/
def CommutesWithForget (f : State → State) : Prop := ∀ s, f s.forgetBit6 = (f s).forgetBit6

/-- The access yields the same byte, and leaves the same state but for the bit. -/
def ReadCommutes (f : State → Fetched) : Prop := ∀ s, f s.forgetBit6 = ((f s).1, (f s).2.forgetBit6)

theorem or_bit6_idem (v : Byte) : v ||| 0x40#8 ||| 0x40#8 = v ||| 0x40#8 := by
  rw [BitVec.or_assoc, BitVec.or_self]

@[simp] theorem forgetBit6_idem (s : State) : s.forgetBit6.forgetBit6 = s.forgetBit6 := by
  simp only [State.forgetBit6, or_bit6_idem]

theorem CommutesWithForget.blind {f : State → State} (h : CommutesWithForget f) : BlindToBit6 f := by
  intro s
  rw [h, forgetBit6_idem]

/-- What does not see the bit agrees on states with equal images. -/
theorem field_congr {α : Type} (f : State → α) (hf : ∀ s, f s.forgetBit6 = f s) {s₁ s₂ : State}
    (hs : s₁.forgetBit6 = s₂.forgetBit6) : f s₁ = f s₂ := by
  rw [← hf s₁, hs, hf]

/-- A blind effect gives equal images from equal images. -/
theorem BlindToBit6.congr {f : State → State} (h : BlindToBit6 f) {s₁ s₂ : State} (hs : s₁.forgetBit6 = s₂.forgetBit6) :
    (f s₁).forgetBit6 = (f s₂).forgetBit6 := by
  rw [← h s₁, ← h s₂, hs]

/-! ### Index bytes -/

theorem indexField_or_bit6 (v : Byte) : indexField (v ||| 0x40#8) = indexField v := by revert v; decide

theorem hlField_or_bit6 (v : Byte) : hlField (v ||| 0x40#8) = hlField v := by revert v; decide

/-- Bit 6 of the advanced byte depends on bit 6 of the old one, and no other bit does. -/
theorem advanceRaw_or_bit6 (v : Byte) : advanceRaw (v ||| 0x40#8) ||| 0x40#8 = advanceRaw v ||| 0x40#8 := by
  revert v; decide

@[simp] theorem palIndex_forgetBit6 (m : PalMem) (s : State) : s.forgetBit6.palIndex m = s.palIndex m ||| 0x40#8 := by
  cases m <;> rfl

@[simp] theorem palEntry_forgetBit6 (m : PalMem) (i : Fin 32) (s : State) : s.forgetBit6.palEntry m i = s.palEntry m i := by
  cases m <;> rfl

@[simp] theorem nextReply_forgetBit6 (s : State) : nextReply s.forgetBit6 = nextReply s := rfl

theorem indexByte_forgetBit6 (m : PalMem) (s : State) : indexByte m s.forgetBit6 = indexByte m s := by
  rw [indexByte, indexByte, palIndex_forgetBit6, or_bit6_idem]

theorem selectedEntry_forgetBit6 (m : PalMem) (s : State) : selectedEntry m s.forgetBit6 = selectedEntry m s := by
  rw [selectedEntry, selectedEntry, palIndex_forgetBit6, palEntry_forgetBit6, indexField_or_bit6]

theorem colourByte_forgetBit6 (m : PalMem) (s : State) : colourByte m s.forgetBit6 = colourByte m s := by
  rw [colourByte, colourByte, selectedEntry_forgetBit6]

theorem setPalIndex_blind (m : PalMem) (v : Byte) : BlindToBit6 (State.setPalIndex m v) := by
  intro s
  cases m <;> simp only [State.setPalIndex, State.forgetBit6, or_bit6_idem]

/-- The image of an index write depends on the byte up to bit 6 only. -/
theorem setPalIndex_congr (m : PalMem) {v v' : Byte} (h : v ||| 0x40#8 = v' ||| 0x40#8) (s : State) :
    (s.setPalIndex m v).forgetBit6 = (s.setPalIndex m v').forgetBit6 := by
  cases m <;> simp only [State.setPalIndex, State.forgetBit6, h]

theorem advanceIndex_blind (m : PalMem) : BlindToBit6 (advanceIndex m) := by
  intro s
  calc (advanceIndex m s.forgetBit6).forgetBit6
      = (s.forgetBit6.setPalIndex m (advanceRaw (s.palIndex m ||| 0x40#8))).forgetBit6 := by
        rw [advanceIndex, palIndex_forgetBit6]
    _ = (s.forgetBit6.setPalIndex m (advanceRaw (s.palIndex m))).forgetBit6 :=
        setPalIndex_congr m (advanceRaw_or_bit6 _) _
    _ = (advanceIndex m s).forgetBit6 := setPalIndex_blind m _ s

theorem setPalEntry_forgetBit6 (m : PalMem) (i : Fin 32) (e : Entry) (s : State) :
    s.forgetBit6.setPalEntry m i e = (s.setPalEntry m i e).forgetBit6 := by
  cases m <;> rfl

theorem writeColour_blind (m : PalMem) (v : Byte) : BlindToBit6 (writeColour m v) := by
  intro s
  rw [writeColour, writeColour, palIndex_forgetBit6, indexField_or_bit6, hlField_or_bit6, selectedEntry_forgetBit6,
    setPalEntry_forgetBit6]
  exact advanceIndex_blind m ((s.setPalEntry m _ _).emit .cacheClear)

/-! ### Reads -/

theorem storeRead_commutes (a : Addr) : ReadCommutes (storeRead a) := by
  intro s
  unfold storeRead
  rw [nextReply_forgetBit6]
  split <;> rfl

theorem readAudio_commutes (a : Addr) : ReadCommutes (readAudio a) := by
  intro s
  unfold readAudio
  rw [show s.forgetBit6.params = s.params from rfl]
  split <;> rfl

/-- No read sees the bit, the reads of the index registers included, which force it to 1. -/
theorem readAccess_commutes (a : Addr) (h : ReadHandler) : ReadCommutes (readAccess a h) := by
  intro s
  cases h
  case audio => exact readAudio_commutes a s
  case oamDma | boot | generic => exact storeRead_commutes _ s
  case bcps | ocps => simp only [readAccess, ownByte, indexByte_forgetBit6]
  case bcpd | ocpd => simp only [readAccess, ownByte, colourByte_forgetBit6]
  case timer | lcd | wramBank | key1 | vbk | hdma1 | hdma2 | hdma3 | hdma4 | hdma5 => rfl

theorem memRead_commutes (a : Addr) : ReadCommutes (memRead a) := by
  intro s
  unfold memRead
  split
  · rfl
  · rw [show s.forgetBit6.params = s.params from rfl]
    split
    · rw [routerRead_eq, routerRead_eq]
      exact readAccess_commutes a _ s
    · rfl

/-! ### Writes and copies -/

theorem setVram_forgetBit6 (b : Bank) (m : Memory) (s : State) :
    s.forgetBit6.setVram b m = (s.setVram b m).forgetBit6 := by
  unfold State.setVram
  split <;> rfl

theorem writeVram_commutes (b : Bank) (a : Addr) (v : Byte) : CommutesWithForget (writeVram b a v) := by
  intro s
  rw [writeVram, writeVram, show s.forgetBit6.vram b = s.vram b from rfl, setVram_forgetBit6]
  rfl

theorem memWrite_commutes {a : Addr} (h : a.toNat < 0xA800) (v : Byte) : CommutesWithForget (memWrite a v) := by
  intro s
  rw [memWrite_low v _ h, memWrite_low v _ h]
  split
  · exact writeVram_commutes s.vbk a v s
  · rfl

theorem copyBytes_commutes (n : Nat) : ∀ (src dst : Addr), dst.toNat + n ≤ 0xA800 →
    CommutesWithForget (copyBytes n src dst) := by
  induction n with
  | zero => intro src dst _ s; rfl
  | succ n ih =>
    intro src dst h s
    obtain ⟨hd, hd'⟩ := copy_step_bound h
    rw [copyBytes, copyBytes, memRead_commutes src s]
    rcases memRead src s with ⟨_ | b, s₁⟩
    · rfl
    · simp only [memWrite_commutes hd b s₁]
      rw [show (memWrite dst b s₁).forgetBit6.fault = (memWrite dst b s₁).fault from rfl]
      split
      · rfl
      · exact ih _ _ hd' _

theorem afterCopy_commutes {rest : State → State} (h : CommutesWithForget rest) :
    CommutesWithForget (afterCopy rest) := by
  intro s
  unfold afterCopy
  rw [show s.forgetBit6.fault = s.fault from rfl]
  split
  · rfl
  · exact h s

theorem countDown_commutes : CommutesWithForget countDown := by
  intro s
  unfold countDown
  rw [show s.forgetBit6.hdma5 = s.hdma5 from rfl]
  split <;> rfl

theorem mirrorCursors_commutes : CommutesWithForget mirrorCursors := fun _ => rfl

theorem advanceCursors_commutes : CommutesWithForget advanceCursors := fun _ => rfl

theorem chunkDone_commutes : CommutesWithForget chunkDone := by
  intro s
  rw [chunkDone, advanceCursors_commutes, mirrorCursors_commutes, countDown_commutes, chunkDone]

theorem hblankTick_commutes : CommutesWithForget hblankTick := by
  intro s
  rcases ha : s.transferActive with _ | _
  · rw [hblankTick_idle ha, hblankTick_idle (s := s.forgetBit6) ha]
  · have hcopy : copyChunk s.forgetBit6 = (copyChunk s).forgetBit6 := copyBytes_commutes 16 _ _ (chunk_bound _) s
    rw [hblankTick_eq ha, hblankTick_eq (s := s.forgetBit6) ha, hcopy, afterCopy_commutes chunkDone_commutes]

theorem generalPurpose_commutes (v : Byte) : CommutesWithForget (generalPurpose v) := by
  intro s
  have hcopy : generalCopy v s.forgetBit6 = (generalCopy v s).forgetBit6 :=
    copyBytes_commutes (hdmaLen v) _ _ (generalPurpose_bound _ _ v) s
  have hdone : CommutesWithForget setHdmaDone := fun _ => rfl
  rw [generalPurpose_eq, generalPurpose_eq, hcopy, afterCopy_commutes hdone]

theorem writeHdma5_commutes (v : Byte) : CommutesWithForget (writeHdma5 v) := by
  intro s
  rcases ha : s.transferActive with _ | _ <;> rcases hv : v.getLsbD 7 with _ | _
  · rw [writeHdma5_idle_bitClear ha hv, writeHdma5_idle_bitClear (s := s.forgetBit6) ha hv, generalPurpose_commutes]
  · rw [writeHdma5_idle_bitSet ha hv, writeHdma5_idle_bitSet (s := s.forgetBit6) ha hv]
    rfl
  · rw [writeHdma5_active_bitClear ha hv, writeHdma5_active_bitClear (s := s.forgetBit6) ha hv]
    rfl
  · rw [writeHdma5_active_bitSet ha hv, writeHdma5_active_bitSet (s := s.forgetBit6) ha hv]
    rfl

theorem storeWrite_commutes (a : Addr) (v : Byte) : CommutesWithForget (storeWrite a v) := by
  intro s
  unfold storeWrite
  rw [nextReply_forgetBit6]
  split <;> rfl

theorem writeBoot_commutes (v : Byte) : CommutesWithForget (writeBoot v) := by
  intro s
  unfold writeBoot
  rw [show s.forgetBit6.bootRomMapped = s.bootRomMapped from rfl]
  split
  · rfl
  · exact storeWrite_commutes 0xFF50#16 v s

/-! ### Every operation -/

theorem effect_read_commutes (h : ReadHandler) (a : Addr) : CommutesWithForget (effect (h.instr a)) := by
  intro s
  rw [effect_read, readEffect, readEffect, readAccess_commutes a h s]
  rfl

theorem effect_write_blind (h : WriteHandler) (a : Addr) (v : Byte) : BlindToBit6 (effect (h.instr a v)) := by
  cases h
  case bcps | ocps => exact setPalIndex_blind _ v
  case bcpd | ocpd => exact writeColour_blind _ v
  case boot => exact (writeBoot_commutes v).blind
  case generic => exact (storeWrite_commutes a v).blind
  case hdma5 => exact (writeHdma5_commutes v).blind
  case audio =>
    refine CommutesWithForget.blind fun s => ?_
    simp only [WriteHandler.instr, effect, writeAudio, show s.forgetBit6.params = s.params from rfl]
    split <;> rfl
  case lcdPal =>
    refine CommutesWithForget.blind fun s => ?_
    simp only [WriteHandler.instr, effect, writeLcdPal, show s.forgetBit6.params = s.params from rfl]
    split <;> rfl
  case timer | lcd | oamDma | wramBank | key1 | vbk | hdma1 | hdma2 | hdma3 | hdma4 =>
    exact CommutesWithForget.blind fun _ => rfl

theorem vramPortRead_commutes (b : Bank) (a : Addr) : CommutesWithForget (vramPortRead b a) := by
  intro s
  unfold vramPortRead
  split <;> rfl

theorem resolveColour_commutes (m : PalMem) (p c : BitVec 4) : CommutesWithForget (resolveColour m p c) := by
  intro s
  unfold resolveColour
  rw [palEntry_forgetBit6]
  split <;> rfl

theorem effect_blind (i : Instr) : BlindToBit6 (effect i) := by
  induction i using Instr.portCases with
  | read h a => exact (effect_read_commutes h a).blind
  | write h a v => exact effect_write_blind h a v
  | vrd a => exact CommutesWithForget.blind fun s => vramPortRead_commutes s.vbk a s
  | vwr a v =>
    refine CommutesWithForget.blind fun s => ?_
    rw [effect]
    rcases ha : inVram a with _ | _
    · rw [vramPortWrite_out ha, vramPortWrite_out ha]
      rfl
    · rw [vramPortWrite_in ha, vramPortWrite_in ha]
      exact writeVram_commutes s.vbk a v s
  | vrdb b a => exact (vramPortRead_commutes b a).blind
  | resolveBg p c => exact (resolveColour_commutes .bg p c).blind
  | resolveObj p c => exact (resolveColour_commutes .obj p c).blind
  | tick => exact hblankTick_commutes.blind
  | commit =>
    refine CommutesWithForget.blind fun s => ?_
    rw [effect, commitSwitch, commitSwitch, show s.forgetBit6.key1 = s.key1 from rfl]
    split <;> rfl
  | reset => exact fun _ => rfl

theorem setResult_blind (r : Option Result) : BlindToBit6 (State.setResult r) := CommutesWithForget.blind fun _ => rfl

theorem setPending_blind (ws : List OpWord) : BlindToBit6 (State.setPending ws) := CommutesWithForget.blind fun _ => rfl

theorem exec_congr (i : Instr) {s₁ s₂ t₁ : State} (hs : s₁.forgetBit6 = s₂.forgetBit6) (h : exec i s₁ = .next t₁) :
    ∃ t₂, exec i s₂ = .next t₂ ∧ t₁.forgetBit6 = t₂.forgetBit6 := by
  have hfault : s₁.fault = s₂.fault := field_congr State.fault (fun _ => rfl) hs
  have hcleared := (setResult_blind none).congr hs
  rcases exec_cases h with ⟨hf, rfl⟩ | ⟨hf, rfl⟩
  · exact ⟨_, by rw [exec_eq, operation_faulted _ (hfault ▸ hf)], hcleared⟩
  · exact ⟨_, exec_running i (hfault ▸ hf), (effect_blind i).congr hcleared⟩

/-- Settles O27: the same word is fetched and decoded, and every effect is blind to the bit; results and events are
fields of the common image. -/
theorem indexBitSixIsNeverObservable : Obligations.IndexBitSixIsNeverObservable := by
  intro s₁ s₂ t₁ hs h
  have hparams : s₁.params = s₂.params := field_congr State.params (fun _ => rfl) hs
  have hpending : s₁.pending = s₂.pending := field_congr State.pending (fun _ => rfl) hs
  have himage : ∃ t₂, step s₂ = .next t₂ ∧ t₁.forgetBit6 = t₂.forgetBit6 := by
    obtain ⟨w, rest, hp, ⟨e, hd, rfl⟩ | ⟨i, hd, hexec⟩⟩ := step_cases h <;> rw [hpending] at hp <;> rw [hparams] at hd
    · have hblind : BlindToBit6 fun s => refuseWord w (s.setPending rest) := CommutesWithForget.blind fun _ => rfl
      exact ⟨_, step_of_decode_error hp hd, hblind.congr hs⟩
    · rw [step_of_decode_ok hp hd]
      exact exec_congr i ((setPending_blind rest).congr hs) hexec
  obtain ⟨t₂, hstep, ht⟩ := himage
  exact ⟨t₂, hstep, ht, field_congr State.result (fun _ => rfl) ht, field_congr State.events (fun _ => rfl) ht⟩

end Sys2Proof.Machine
end

section
/-! PROOFS. The forwarded accesses (R195-R210): O15, O28 to O34. A read of a collaborator is one access with the first
answer as its byte; the generic store's accesses split on whether that answer is a failure. -/

namespace Sys2Proof.Machine

/-! ### One access of a collaborator -/

theorem readEffect_extRead (p : Port) (a : Addr) (s : State) : readEffect (extRead p a) (s.setResult none) =
    { s with replies := s.replies.tail, draws := s.draws + 1, reads := (p, a) :: s.reads,
             result := some (.byte (answer s 0)) } := by
  rw [readEffect, extRead, nextReply_setResult, nextReply_eq]
  rfl

theorem readEffect_storeRead_ok {s : State} (h : answerFails s 0 = false) (a : Addr) :
    readEffect (storeRead a) (s.setResult none) =
      { s with replies := s.replies.tail, draws := s.draws + 1, reads := (.store, a) :: s.reads,
               result := some (.byte (answer s 0)) } := by
  have hreply : (nextReply (s.setResult none)).fails = false := by rw [nextReply_setResult, nextReply_eq]; exact h
  rw [readEffect, storeRead, if_neg (Bool.eq_false_iff.mp hreply)]
  exact readEffect_extRead .store a s

theorem readEffect_storeRead_failed {s : State} (h : answerFails s 0 = true) (a : Addr) :
    readEffect (storeRead a) (s.setResult none) =
      { s with replies := s.replies.tail, draws := s.draws + 1, reads := (.store, a) :: s.reads,
               fault := some (.storeFail a), result := none } := by
  have hreply : (nextReply (s.setResult none)).fails = true := by rw [nextReply_setResult, nextReply_eq]; exact h
  have hread : storeRead a (s.setResult none) =
      (none, raiseFault (.storeFail a) ((takeReply (s.setResult none)).noteRead .store a)) := if_pos hreply
  rw [readEffect, hread]
  simp only [raiseFault, takeReply, State.noteRead, State.setFault, State.setResult, Option.map_none]

theorem storeWrite_ok {s : State} (h : answerFails s 0 = false) (a : Addr) (v : Byte) :
    storeWrite a v (s.setResult none) =
      { s with replies := s.replies.tail, draws := s.draws + 1, events := .extWrite .store a v :: s.events,
               result := none } := by
  have hreply : (nextReply (s.setResult none)).fails = false := by rw [nextReply_setResult, nextReply_eq]; exact h
  rw [storeWrite, if_neg (Bool.eq_false_iff.mp hreply)]
  rfl

theorem storeWrite_failed {s : State} (h : answerFails s 0 = true) (a : Addr) (v : Byte) :
    storeWrite a v (s.setResult none) =
      { s with replies := s.replies.tail, draws := s.draws + 1, fault := some (.storeFail a), result := none } := by
  have hreply : (nextReply (s.setResult none)).fails = true := by rw [nextReply_setResult, nextReply_eq]; exact h
  rw [storeWrite, if_pos hreply]
  rfl

theorem writeBoot_unmaps {s : State} {v : Byte} (h : s.bootRomMapped = true ∧ (v = 0x01#8 ∨ v = 0x11#8)) :
    writeBoot v s = (s.setBootRomMapped false).emit .bootRomUnmap := if_pos h

theorem writeBoot_stores {s : State} {v : Byte} (h : ¬ (s.bootRomMapped = true ∧ (v = 0x01#8 ∨ v = 0x11#8))) :
    writeBoot v s = storeWrite 0xFF50#16 v s := if_neg h

/-! ### The operations -/

/-- A bus read of a running block is its row's access. -/
theorem exec_read (h : ReadHandler) (a : Addr) {s : State} (hf : s.fault = none) :
    exec (h.instr a) s = .next (readEffect (readAccess a h) (s.setResult none)) := by
  rw [exec_running _ hf, effect_read]

theorem exec_extRead {h : ReadHandler} {a : Addr} {p : Port} (b : Addr) (hacc : readAccess a h = extRead p b) {s : State}
    (hf : s.fault = none) : exec (h.instr a) s = .next
      { s with replies := s.replies.tail, draws := s.draws + 1, reads := (p, b) :: s.reads,
               result := some (.byte (answer s 0)) } := by
  rw [exec_read h a hf, hacc, readEffect_extRead]

theorem exec_storeRead_ok {h : ReadHandler} {a : Addr} (b : Addr) (hacc : readAccess a h = storeRead b) {s : State}
    (hf : s.fault = none) (hok : answerFails s 0 = false) : exec (h.instr a) s = .next
      { s with replies := s.replies.tail, draws := s.draws + 1, reads := (.store, b) :: s.reads,
               result := some (.byte (answer s 0)) } := by
  rw [exec_read h a hf, hacc, readEffect_storeRead_ok hok]

theorem exec_storeRead_failed {h : ReadHandler} {a : Addr} (b : Addr) (hacc : readAccess a h = storeRead b) {s : State}
    (hf : s.fault = none) (hfail : answerFails s 0 = true) : exec (h.instr a) s = .next
      { s with replies := s.replies.tail, draws := s.draws + 1, reads := (.store, b) :: s.reads,
               fault := some (.storeFail b), result := none } := by
  rw [exec_read h a hf, hacc, readEffect_storeRead_failed hfail]

theorem exec_wrGeneric_ok (a : Addr) (v : Byte) {s : State} (hf : s.fault = none) (hok : answerFails s 0 = false) :
    exec (.wrGeneric a v) s = .next
      { s with replies := s.replies.tail, draws := s.draws + 1, events := .extWrite .store a v :: s.events,
               result := none } := by
  rw [exec_running _ hf, effect, storeWrite_ok hok]

/-- A store write of WR BOOT is the generic one at 0xFF50 (R204). -/
theorem exec_wrBoot_stores {v : Byte} {s : State} (hf : s.fault = none)
    (h : ¬ (s.bootRomMapped = true ∧ (v = 0x01#8 ∨ v = 0x11#8))) :
    exec (.wrBoot v) s = exec (.wrGeneric 0xFF50#16 v) s := by
  rw [exec_running _ hf, exec_running _ hf, effect, writeBoot_stores (s := s.setResult none) h, effect]

/-- Settles O15: each of the five accesses is one failing access of the store. -/
theorem storeFailureFaults : Obligations.StoreFailureFaults := by
  intro s a v hf hfail
  have hwrite : ∀ a, exec (.wrGeneric a v) s = .next
      { s with replies := s.replies.tail, draws := s.draws + 1, fault := some (.storeFail a), result := none } := by
    intro a
    rw [exec_running _ hf, effect, storeWrite_failed hfail]
  refine ⟨exec_storeRead_failed (h := .generic) a rfl hf hfail, hwrite a, ?_, ?_, fun hb => ?_⟩
  · exact exec_storeRead_failed (h := .oamDma) (a := 0#16) 0xFF46#16 rfl hf hfail
  · exact exec_storeRead_failed (h := .boot) (a := 0#16) 0xFF50#16 rfl hf hfail
  · rw [exec_wrBoot_stores hf hb]
    exact hwrite 0xFF50#16

/-- Settles O28: the timer's row, one access and one event of its port. -/
theorem timerIsPassedThrough : Obligations.TimerIsPassedThrough := by
  refine ⟨fun cgb a v hlo hhi => ?words, fun s a v hf => ⟨?read, ?write⟩⟩
  case words =>
    have ht : Addr.isTimer a = true := (Addr.within_iff a _ _).mpr ⟨hlo, hhi⟩
    exact ⟨decode_rd_of_row ((readHandler_rows a cgb).1 ht), decode_wr_of_row v ((writeHandler_rows a cgb).1 ht)⟩
  case read => exact exec_extRead (h := .timer) a rfl hf
  case write => exact exec_running (.wrTimer a v) hf

/-- Settles O29: the flag chooses between the sound port and a constant byte or no effect. -/
theorem audioIsGatedByItsFlag : Obligations.AudioIsGatedByItsFlag := by
  intro s a v hf
  refine ⟨fun hon => ⟨?_, ?_⟩, fun hoff => ⟨?_, ?_⟩⟩
  · have hread : readAudio a (s.setResult none) = extRead .audio a (s.setResult none) := if_pos hon
    rw [exec_running _ hf, effect, readEffect, hread]
    exact congrArg _ (readEffect_extRead .audio a s)
  · have hwrite : writeAudio a v (s.setResult none) = extWrite .audio a v (s.setResult none) := if_pos hon
    rw [exec_running _ hf, effect, hwrite]
    rfl
  · have hread : readAudio a (s.setResult none) = ownByte 0x00#8 (s.setResult none) :=
      if_neg (Bool.eq_false_iff.mp hoff)
    rw [exec_running _ hf, effect, readEffect, hread]
    rfl
  · have hwrite : writeAudio a v (s.setResult none) = s.setResult none := if_neg (Bool.eq_false_iff.mp hoff)
    rw [exec_running _ hf, effect, hwrite]
    rfl

theorem isLcdControl_of_mem {a : Addr} (h : a.toNat ∈ [0xFF40, 0xFF42, 0xFF43, 0xFF4A, 0xFF4B]) :
    Addr.isLcdControl a = true := by
  simp only [List.mem_cons, List.not_mem_nil, or_false] at h
  simp only [Addr.isLcdControl, Bool.or_eq_true, beq_iff_eq, ← BitVec.toNat_inj, BitVec.toNat_ofNat]
  omega

theorem isLcd_of_mem {a : Addr} (h : a.toNat ∈ [0xFF40, 0xFF42, 0xFF43, 0xFF47, 0xFF48, 0xFF49, 0xFF4A, 0xFF4B]) :
    (Addr.isLcdControl a || Addr.isLcdPal a) = true := by
  simp only [List.mem_cons, List.not_mem_nil, or_false] at h
  simp only [Addr.isLcdControl, Addr.isLcdPal, Bool.or_eq_true, beq_iff_eq, ← BitVec.toNat_inj, BitVec.toNat_ofNat]
  omega

/-- Settles O30: the LCD's row, one access and one event of its port. -/
theorem lcdIsPassedThrough : Obligations.LcdIsPassedThrough := by
  refine ⟨fun cgb a v => ⟨fun h => ?_, fun h => ?_⟩, fun s a v hf => ⟨?_, ?_⟩⟩
  · exact decode_rd_of_row ((readHandler_rows a cgb).2.2.1 (isLcd_of_mem h))
  · exact decode_wr_of_row v ((writeHandler_rows a cgb).2.2.1 (isLcdControl_of_mem h))
  · exact exec_extRead (h := .lcd) a rfl hf
  · exact exec_running (.wrLcd a v) hf

/-- Settles O31: CACHE_CLEAR follows the LCD write in monochrome mode only. -/
theorem lcdPaletteWriteClearsTheCacheInMono : Obligations.LcdPaletteWriteClearsTheCacheInMono := by
  intro s a v hf
  refine ⟨fun hc => ?_, fun hm => ?_⟩
  · have hwrite : writeLcdPal a v (s.setResult none) = extWrite .lcd a v (s.setResult none) := if_pos hc
    rw [exec_running _ hf, effect, hwrite]
    rfl
  · have hwrite : writeLcdPal a v (s.setResult none) = (extWrite .lcd a v (s.setResult none)).emit .cacheClear :=
      if_neg (Bool.eq_false_iff.mp hm)
    rw [exec_running _ hf, effect, hwrite]
    rfl

/-- Settles O32: two events, an access of the store and one of the WRAM bank port. -/
theorem oamDmaAndWramBankAreForwarded : Obligations.OamDmaAndWramBankAreForwarded := by
  intro s v hf
  refine ⟨exec_running (.wrOamdma v) hf, fun hok => ?_, ?_, exec_running (.wrWrambank v) hf⟩
  · exact exec_storeRead_ok (h := .oamDma) (a := 0#16) 0xFF46#16 rfl hf hok
  · exact exec_extRead (h := .wramBank) (a := 0#16) 0xFF70#16 rfl hf

/-- Settles O33: WR BOOT's guard decides between the unmapping and the store's write at 0xFF50. -/
theorem bootRomDisableIsOneShot : Obligations.BootRomDisableIsOneShot := by
  intro s v hf
  refine ⟨fun hmapped hv => ?_, fun hok => ⟨fun h => ?_, ?_⟩⟩
  · rw [exec_running _ hf, effect, writeBoot_unmaps (s := s.setResult none) ⟨hmapped, hv⟩]
    rfl
  · have hstores : ¬ (s.bootRomMapped = true ∧ (v = 0x01#8 ∨ v = 0x11#8)) := by
      rintro ⟨hmapped, hv⟩
      rcases h with hunmapped | ⟨h01, h11⟩
      · exact nomatch hmapped.symm.trans hunmapped
      · exact hv.elim h01 h11
    rw [exec_wrBoot_stores hf hstores, exec_wrGeneric_ok 0xFF50#16 v hf hok]
  · exact exec_storeRead_ok (h := .boot) (a := 0#16) 0xFF50#16 rfl hf hok

/-- Settles O34: one access of the store that does not fail. -/
theorem otherAddressesGoToTheStore : Obligations.OtherAddressesGoToTheStore :=
  fun _ a v hf hok => ⟨exec_storeRead_ok (h := .generic) a rfl hf hok, exec_wrGeneric_ok a v hf hok⟩

end Sys2Proof.Machine
end

section
/-! PROOFS. The registers and memories of the block itself: reset (O8, O9), the VRAM ports (O12, O16 to O19), RESOLVE
(O13, O25), the palette ports (O20, O21, O23, O24), and the registers of the DMA and of the speed (O14, O36, O38, O52). A
word with a data byte is the one with DATA zero, with the byte set in it. -/

namespace Sys2Proof.Machine

/-- A read of a byte of the block's own returns it and changes nothing else. -/
theorem exec_ownByte {h : ReadHandler} {a : Addr} {v : State → Byte} (hacc : readAccess a h = fun s => ownByte (v s) s)
    {s : State} (hf : s.fault = none) :
    exec (h.instr a) s = .next { s with result := some (.byte (v (s.setResult none))) } := by
  rw [exec_read h a hf, hacc]
  rfl

theorem raiseFault_cleared (f : BlockFault) (s : State) :
    raiseFault f (s.setResult none) = { s with fault := some f, result := none } := rfl

/-! ### Reset -/

theorem getElem_replicate_entry (i : Fin 32) (e : Entry) : (Vector.replicate 32 e)[i] = e := Vector.getElem_replicate i.isLt

/-- Settles O8: every other field is the one `State.reset` is written with. -/
theorem runStartsInTheResetState : Obligations.RunStartsInTheResetState :=
  ⟨fun i => ⟨getElem_replicate_entry i _, getElem_replicate_entry i _⟩, rfl, rfl, rfl, rfl, rfl, rfl, rfl, rfl, rfl, rfl,
    rfl, rfl, rfl, rfl⟩

/-- Settles O9: RESET's effect is `resetBlock`. -/
theorem resetRestoresTheBlock : Obligations.ResetRestoresTheBlock :=
  fun _ hf => ⟨_, exec_running .reset hf, fun i => ⟨getElem_replicate_entry i _, getElem_replicate_entry i _⟩, rfl⟩

/-! ### The VRAM ports -/

theorem effect_vrd (a : Addr) (s : State) : effect (.vrd a) s = vramPortRead s.vbk a s := rfl

theorem vramPortRead_in {a : Addr} (ha : inVram a = true) (b : Bank) (s : State) :
    vramPortRead b a s = s.setResult (some (.byte (readVram b a s))) := if_pos ha

theorem vramPortRead_out {a : Addr} (ha : inVram a = false) (b : Bank) (s : State) :
    vramPortRead b a s = raiseFault (.vramRange a) s := if_neg (Bool.eq_false_iff.mp ha)

/-- Settles O12: outside the window each port raises its fault on a state whose result is already cleared. -/
theorem vramPortsFaultOutsideTheWindow : Obligations.VramPortsFaultOutsideTheWindow := by
  intro s a v b hf hout
  have ha : inVram a = false := by rw [Bool.eq_false_iff, Ne, inVram_iff]; exact hout
  refine ⟨?_, ?_, ?_⟩
  · rw [exec_running _ hf, effect_vrd, vramPortRead_out ha, raiseFault_cleared]
  · rw [exec_running _ hf, effect, vramPortWrite_out ha, raiseFault_cleared]
  · rw [exec_running _ hf, effect, vramPortRead_out ha, raiseFault_cleared]

/-- Settles O16: the write keeps bit 0 of its byte. -/
theorem vbkWriteSelectsTheBank : Obligations.VbkWriteSelectsTheBank := by
  refine ⟨fun v => ?_, fun s v hf => exec_running (.wrVbk v) hf⟩
  exact ⟨decode_wr_or_data true 0xFF4F#16 v, decode_wr_or_data false 0xFF4F#16 v⟩

theorem vbkByte_eq (s : State) : vbkByte s = if s.vbk = 0#1 then 0xFE#8 else 0xFF#8 := by
  unfold vbkByte
  generalize s.vbk = b
  revert b; decide

/-- Settles O17: the byte is 0xFE with the bank in bit 0. -/
theorem vbkReadShowsTheBank : Obligations.VbkReadShowsTheBank := by
  refine ⟨decode_rd 0xFF4F#16 true, decode_rd 0xFF4F#16 false, fun s hf => ?_⟩
  rw [← vbkByte_eq]
  exact exec_ownByte (h := .vbk) (a := 0#16) rfl hf

/-- Settles O18: in the window the port returns the byte at the address's offset in the bank. -/
theorem vramReadsReturnTheBankByte : Obligations.VramReadsReturnTheBankByte := by
  intro s a b hf hlo hhi
  have ha : inVram a = true := (inVram_iff a).mpr ⟨hlo, hhi⟩
  refine ⟨?_, ?_, rfl⟩
  · rw [exec_running _ hf, effect_vrd, vramPortRead_in ha]
    rfl
  · rw [exec_running _ hf, effect, vramPortRead_in ha]
    rfl

/-- A VRAM write changes the two banks and the events only. -/
theorem writeVram_eq (b : Bank) (a : Addr) (v : Byte) (s : State) : writeVram b a v s =
    { s with vram0 := (writeVram b a v s).vram0, vram1 := (writeVram b a v s).vram1,
             events := .tileDirty b a :: s.events } := by
  unfold writeVram State.setVram
  split <;> rfl

/-- Settles O19: in the window VWR is one write of the active bank, read back byte by byte. -/
theorem vramWriteChangesOneByte : Obligations.VramWriteChangesOneByte := by
  intro s a v hinv hf hlo hhi
  have ha : inVram a = true := (inVram_iff a).mpr ⟨hlo, hhi⟩
  have hwf : (s.setResult none).VramWf := (hinv.setResult none).vramWf
  have hread := fun (b : Bank) {a' : Addr} (ha' : inVram a' = true) => readVram_writeVram hwf s.vbk b ha ha' v
  refine ⟨writeVram s.vbk a v (s.setResult none), ?_, ?_, fun b a' ha' hne => ?_, writeVram_eq _ _ _ _⟩
  · rw [exec_running _ hf, effect, vramPortWrite_in ha]
    rfl
  · rw [hread s.vbk ha, if_pos ⟨rfl, rfl⟩]
  · rw [hread b ha', if_neg (fun h => hne.elim (· h.1) (· h.2))]
    rfl

/-! ### RESOLVE -/

theorem resolveOutOfRange_iff (p c : BitVec 4) : resolveOutOfRange p c = true ↔ 7 < p.toNat ∨ 3 < c.toNat := by
  simp [resolveOutOfRange, BitVec.lt_def]

/-- Settles O13: out of range RESOLVE raises its fault on a state whose result is already cleared. -/
theorem resolveFaultsOutOfRange : Obligations.ResolveFaultsOutOfRange := by
  intro s p c hf hout
  have hfault : ∀ m, resolveColour m p c (s.setResult none) = raiseFault (.paletteRange m p c) (s.setResult none) :=
    fun m => if_pos ((resolveOutOfRange_iff p c).mpr hout)
  refine ⟨?_, ?_⟩ <;> rw [exec_running _ hf, effect, hfault, raiseFault_cleared]

/-- Bits 14:0 of an entry, as RESOLVE takes them. -/
theorem colourBits_eq (e : Entry) : (e &&& 0x7FFF#16).setWidth 15 = e.extractLsb' 0 15 := by
  apply BitVec.eq_of_toNat_eq
  rw [BitVec.toNat_setWidth, BitVec.toNat_and, show (0x7FFF#16).toNat = 2 ^ 15 - 1 from rfl,
    Nat.and_two_pow_sub_one_eq_mod, Nat.mod_mod, BitVec.extractLsb'_toNat, Nat.shiftRight_zero]

/-- Settles O25: in range RESOLVE returns the expansion of the entry at `P*4 + C`. -/
theorem resolveReturnsTheExpandedColour : Obligations.ResolveReturnsTheExpandedColour := by
  intro s p c i hf hp hc hi
  have hrange : ¬ resolveOutOfRange p c = true := by rw [resolveOutOfRange_iff]; omega
  have hindex : flatIndex p c = i := by
    apply Fin.ext
    rw [flatIndex, Fin.val_ofNat, hi]
    omega
  have hcolour : ∀ m, resolveColour m p c (s.setResult none) =
      { s with result := some (.colour (expand15to24 ((s.palEntry m i).extractLsb' 0 15))) } := by
    intro m
    rw [resolveColour, if_neg hrange, hindex, colourBits_eq]
    cases m <;> rfl
  refine ⟨?_, ?_⟩ <;> rw [exec_running _ hf, effect, hcolour] <;> rfl

/-! ### The palette ports -/

/-- Settles O20: each write's effect is the update of its own index register. -/
theorem paletteIndexWriteStoresTheByte : Obligations.PaletteIndexWriteStoresTheByte := by
  refine ⟨fun v => ⟨decode_wr_or_data true 0xFF68#16 v, decode_wr_or_data true 0xFF6A#16 v⟩, fun s v hf => ?_⟩
  exact ⟨exec_running (.wrBcps v) hf, exec_running (.wrOcps v) hf⟩

/-- Settles O21: each read returns `indexByte` of its own register. -/
theorem paletteIndexReadForcesBitSix : Obligations.PaletteIndexReadForcesBitSix := by
  refine ⟨⟨decode_rd 0xFF68#16 true, decode_rd 0xFF6A#16 true, decode_rd 0xFF68#16 false, decode_rd 0xFF6A#16 false⟩,
    fun s hf => ⟨?_, ?_⟩⟩
  · exact exec_ownByte (h := .bcps) (a := 0#16) rfl hf
  · exact exec_ownByte (h := .ocps) (a := 0#16) rfl hf

/-- Settles O24: each read returns `colourByte` of its own memory. -/
theorem paletteDataReadReturnsTheLowByte : Obligations.PaletteDataReadReturnsTheLowByte := by
  refine fun s hf => ⟨?_, ?_⟩
  · exact exec_ownByte (h := .bcpd) (a := 0#16) rfl hf
  · exact exec_ownByte (h := .ocpd) (a := 0#16) rfl hf

theorem entry_eq_append (e : Entry) : e.extractLsb' 8 8 ++ e.extractLsb' 0 8 = e :=
  (BitVec.extractLsb'_append_extractLsb'_eq_extractLsb' (start₁ := 0) rfl).trans BitVec.extractLsb'_eq_self

theorem zeroExtend_shiftLeft_eq_append (v : Byte) : v.zeroExtend 16 <<< 8 = v ++ 0#8 := by
  rw [BitVec.append_def, BitVec.shiftLeftZeroExtend_eq, BitVec.setWidth'_eq]
  exact BitVec.or_zero.symm

/-- Of an entry written as high and low byte, the one HL selects is replaced (R170). -/
theorem mergeByte_append (hl : Bool) (hi lo v : Byte) :
    mergeByte hl (hi ++ lo) v = if hl then v ++ lo else hi ++ v := by
  have hext : v.zeroExtend 16 = 0#8 ++ v := BitVec.setWidth_eq_append (by decide)
  have hlowMask : (0x00FF#16 : Entry) = 0#8 ++ 0xFF#8 := rfl
  have hhighMask : (0xFF00#16 : Entry) = 0xFF#8 ++ 0#8 := rfl
  have hall : ∀ x : Byte, x &&& 0xFF#8 = x := fun _ => BitVec.and_allOnes
  cases hl
  · rw [mergeByte, if_neg Bool.false_ne_true, hext, hhighMask, BitVec.and_append, BitVec.or_append]
    simp [hall]
  · rw [mergeByte, if_pos rfl, zeroExtend_shiftLeft_eq_append, hlowMask, BitVec.and_append, BitVec.or_append]
    simp [hall]

theorem mergeByte_eq (hl : Bool) (e : Entry) (v : Byte) :
    mergeByte hl e v = if hl then v ++ e.extractLsb' 0 8 else e.extractLsb' 8 8 ++ v := by
  rw [← mergeByte_append, entry_eq_append]

theorem palEntry_writeColour (m : PalMem) (v : Byte) (s : State) (i : Fin 32) : (writeColour m v s).palEntry m i =
    if i = indexField (s.palIndex m) then mergeByte (hlField (s.palIndex m)) (selectedEntry m s) v
    else s.palEntry m i := by
  have hemit : ∀ u : State, (u.emit .cacheClear).palEntry m i = u.palEntry m i := fun u => by cases m <;> rfl
  rw [writeColour, advanceIndex, State.palEntry_setPalIndex, hemit, State.palEntry_setPalEntry]
  simp only [true_and]

/-- The entry a data-port write selects has one byte replaced, and no other entry changes. -/
theorem writeColour_entries (m : PalMem) (v : Byte) (s : State) :
    ((writeColour m v s).palEntry m (indexField (s.palIndex m)) =
      if (s.palIndex m).getLsbD 0 then v ++ (s.palEntry m (indexField (s.palIndex m))).extractLsb' 0 8
      else (s.palEntry m (indexField (s.palIndex m))).extractLsb' 8 8 ++ v) ∧
    ∀ i, i ≠ indexField (s.palIndex m) → (writeColour m v s).palEntry m i = s.palEntry m i := by
  refine ⟨?_, fun i hi => ?_⟩
  · rw [palEntry_writeColour, if_pos rfl, mergeByte_eq, hlField, selectedEntry]
  · rw [palEntry_writeColour, if_neg hi]

/-- Settles O23: `writeColour` changes one entry, its index register and the events. -/
theorem paletteDataWriteReplacesOneByte : Obligations.PaletteDataWriteReplacesOneByte := by
  intro s v hf
  obtain ⟨hbgByte, hbgOther⟩ := writeColour_entries .bg v (s.setResult none)
  obtain ⟨hobjByte, hobjOther⟩ := writeColour_entries .obj v (s.setResult none)
  exact ⟨⟨_, exec_running (.wrBcpd v) hf, hbgByte, hbgOther, rfl⟩,
    ⟨_, exec_running (.wrOcpd v) hf, hobjByte, hobjOther, rfl⟩⟩

/-! ### The registers of the DMA and of the speed -/

/-- Settles O14: each of the four reads raises its fault on a state whose result is already cleared. -/
theorem addressHalfReadsFault : Obligations.AddressHalfReadsFault := by
  refine ⟨⟨decode_rd 0xFF51#16 true, decode_rd 0xFF52#16 true, decode_rd 0xFF53#16 true, decode_rd 0xFF54#16 true,
    decode_rd 0xFF51#16 false⟩, fun s hf => ?_⟩
  have hread : ∀ a, readEffect (writeOnlyRead a) (s.setResult none) =
      { s with fault := some (.hdmaWoRead a), result := none } := by
    intro a
    rw [readEffect, writeOnlyRead, raiseFault_cleared]
    rfl
  refine ⟨?_, ?_, ?_, ?_⟩ <;> rw [exec_running _ hf, effect, hread]

/-- Settles O36: the read returns HDMA5. -/
theorem hdma5ReadReturnsTheStoredByte : Obligations.Hdma5ReadReturnsTheStoredByte :=
  ⟨decode_rd 0xFF55#16 true, decode_rd 0xFF55#16 false, fun _ hf => exec_ownByte (h := .hdma5) (a := 0#16) rfl hf⟩

/-- Settles O38: the command is `startPaced`, which writes the cursors, HDMA5 and transfer_active only. -/
theorem pacedStartLoadsTheCursors : Obligations.PacedStartLoadsTheCursors := by
  refine ⟨decode_wrHdma5Word, fun s v hf ha hv => ?_⟩
  have hstart : effect (.wrHdma5 v) (s.setResult none) = startPaced v (s.setResult none) := writeHdma5_idle_bitSet ha hv
  rw [exec_running _ hf, hstart]
  rfl

/-- Settles O52: the write's effect is KEY1's update, and the read returns KEY1. -/
theorem key1IsStoredVerbatim : Obligations.Key1IsStoredVerbatim := by
  refine ⟨⟨decode_rd 0xFF4D#16 true, decode_rd 0xFF4D#16 false, fun v => ?_⟩, fun s v hf => ⟨?_, ?_⟩⟩
  · exact ⟨decode_wr_or_data true 0xFF4D#16 v, decode_wr_or_data false 0xFF4D#16 v⟩
  · exact exec_running (.wrKey1 v) hf
  · exact exec_ownByte (h := .key1) (a := 0#16) rfl hf

end Sys2Proof.Machine
end

section
/-! PROOFS. Which operations move a register: the index registers (R155; O22), the speed (R283; O54), and the colour
registers in monochrome mode (R192; O60). -/

namespace Sys2Proof.Machine

/-! ### The index registers -/

theorem setPalIndex_self (m : PalMem) (s : State) : s.setPalIndex m (s.palIndex m) = s := by cases m <;> rfl

theorem advanceRaw_of_clear {raw : Byte} (h : raw.getLsbD 7 = false) : advanceRaw raw = raw :=
  if_neg (Bool.eq_false_iff.mp h)

theorem advanceRaw_of_set {raw : Byte} (h : raw.getLsbD 7 = true) :
    advanceRaw raw = 0x80#8 ||| ((raw + 1#8) &&& 0x7F#8) := if_pos h

/-- The low seven bits step by one; the lowest of them is HL, the next five INDEX. -/
theorem advanceRaw_fields {raw : Byte} (h : raw.getLsbD 7 = true) :
    (advanceRaw raw).getLsbD 7 = true ∧
    (advanceRaw raw).toNat % 128 = (raw.toNat % 128 + 1) % 128 ∧
    hlField (advanceRaw raw) = !hlField raw ∧
    (indexField (advanceRaw raw)).val =
      (if hlField raw then ((indexField raw).val + 1) % 32 else (indexField raw).val) := by
  revert raw; decide

theorem RegisterStep.bcps_eq {i : Instr} {s t : State} (h : RegisterStep i s t) :
    t.bcps = s.bcps ∨ i = .reset ∨ (∃ v, i = .wrBcps v) ∨ ∃ v, i = .wrBcpd v := by
  cases h
  case keep h => exact .inl h.bcps
  case boot v => exact .inl (writeBoot_busFrame v s).bcps
  case hdma5 v => exact .inl (writeHdma5_engineFrame v s).bcps
  case tick => exact .inl (hblankTick_engineFrame s).bcps
  case commit =>
    unfold commitSwitch
    split <;> exact .inl rfl
  case bcps v => exact .inr (.inr (.inl ⟨v, rfl⟩))
  case bcpd v => exact .inr (.inr (.inr ⟨v, rfl⟩))
  case reset => exact .inr (.inl rfl)
  case key1 | vbk | hdma1 | hdma2 | hdma3 | hdma4 | ocps | ocpd => exact .inl rfl

theorem RegisterStep.ocps_eq {i : Instr} {s t : State} (h : RegisterStep i s t) :
    t.ocps = s.ocps ∨ i = .reset ∨ (∃ v, i = .wrOcps v) ∨ ∃ v, i = .wrOcpd v := by
  cases h
  case keep h => exact .inl h.ocps
  case boot v => exact .inl (writeBoot_busFrame v s).ocps
  case hdma5 v => exact .inl (writeHdma5_engineFrame v s).ocps
  case tick => exact .inl (hblankTick_engineFrame s).ocps
  case commit =>
    unfold commitSwitch
    split <;> exact .inl rfl
  case ocps v => exact .inr (.inr (.inl ⟨v, rfl⟩))
  case ocpd v => exact .inr (.inr (.inr ⟨v, rfl⟩))
  case reset => exact .inr (.inl rfl)
  case key1 | vbk | hdma1 | hdma2 | hdma3 | hdma4 | bcps | bcpd => exact .inl rfl

/-- Settles O22: the advanced byte by its fields, and each operation's step of the two registers. -/
theorem autoIncrementStep : Obligations.AutoIncrementStep := by
  refine ⟨fun m s h => ?_, fun m s h => ?_, fun raw h => advanceRaw_fields h, fun i s t h => ?_⟩
  · rw [advanceIndex, advanceRaw_of_clear h, setPalIndex_self]
  · rw [advanceIndex, advanceRaw_of_set h]
    exact ⟨rfl, State.palIndex_setPalIndex s m _⟩
  · rcases exec_registerStep h with rfl | hstep
    · exact ⟨fun hne => absurd rfl hne, fun hne => absurd rfl hne⟩
    · exact ⟨hstep.bcps_eq.resolve_left, hstep.ocps_eq.resolve_left⟩

/-! ### The speed -/

theorem RegisterStep.doubleSpeed_eq {i : Instr} {s t : State} (h : RegisterStep i s t) :
    t.doubleSpeed = s.doubleSpeed ∨ i = .commit ∨ i = .reset := by
  cases h
  case keep h => exact .inl h.doubleSpeed
  case boot v => exact .inl (writeBoot_busFrame v s).doubleSpeed
  case hdma5 v => exact .inl (writeHdma5_engineFrame v s).doubleSpeed
  case tick => exact .inl (hblankTick_engineFrame s).doubleSpeed
  case commit => exact .inr (.inl rfl)
  case reset => exact .inr (.inr rfl)
  case key1 | vbk | hdma1 | hdma2 | hdma3 | hdma4 | bcps | ocps | bcpd | ocpd => exact .inl rfl

/-- Settles O54: each operation's step of double_speed. -/
theorem onlyCommitAndResetChangeTheSpeed : Obligations.OnlyCommitAndResetChangeTheSpeed := by
  intro i s t h hne
  rcases exec_registerStep h with rfl | hstep
  · exact absurd rfl hne
  · exact hstep.doubleSpeed_eq.resolve_left hne

/-! ### Monochrome mode -/

/-- VBK, the palettes and their index registers, and the registers of the DMA are the same. -/
structure ColourFrame (s t : State) : Prop where
  vbk : t.vbk = s.vbk
  bcps : t.bcps = s.bcps
  ocps : t.ocps = s.ocps
  bgpal : t.bgpal = s.bgpal
  objpal : t.objpal = s.objpal
  hdma1 : t.hdma1 = s.hdma1
  hdma2 : t.hdma2 = s.hdma2
  hdma3 : t.hdma3 = s.hdma3
  hdma4 : t.hdma4 = s.hdma4
  hdma5 : t.hdma5 = s.hdma5
  transferActive : t.transferActive = s.transferActive
  curSrc : t.curSrc = s.curSrc
  curDst : t.curDst = s.curDst

theorem BusFrame.colour {s t : State} (h : BusFrame s t) : ColourFrame s t :=
  ⟨h.vbk, h.bcps, h.ocps, h.bgpal, h.objpal, h.hdma1, h.hdma2, h.hdma3, h.hdma4, h.hdma5, h.transferActive, h.curSrc,
    h.curDst⟩

theorem ColourFrame.trans {s t u : State} (h : ColourFrame s t) (k : ColourFrame t u) : ColourFrame s u where
  vbk := k.vbk.trans h.vbk
  bcps := k.bcps.trans h.bcps
  ocps := k.ocps.trans h.ocps
  bgpal := k.bgpal.trans h.bgpal
  objpal := k.objpal.trans h.objpal
  hdma1 := k.hdma1.trans h.hdma1
  hdma2 := k.hdma2.trans h.hdma2
  hdma3 := k.hdma3.trans h.hdma3
  hdma4 := k.hdma4.trans h.hdma4
  hdma5 := k.hdma5.trans h.hdma5
  transferActive := k.transferActive.trans h.transferActive
  curSrc := k.curSrc.trans h.curSrc
  curDst := k.curDst.trans h.curDst

theorem setBootRomMapped_colourFrame (b : Bool) (s : State) : ColourFrame s (s.setBootRomMapped b) := by
  constructor <;> rfl

theorem setPending_colourFrame (ws : List OpWord) (s : State) : ColourFrame s (s.setPending ws) := by
  constructor <;> rfl

theorem refuseWord_colourFrame (w : OpWord) (s : State) : ColourFrame s (refuseWord w s) := by constructor <;> rfl

theorem commitSwitch_colourFrame (s : State) : ColourFrame s (commitSwitch s) := by
  unfold commitSwitch
  split <;> constructor <;> rfl

/-- An operation that exists in monochrome mode, RESET apart, leaves the colour registers of an Idle block alone, and
only COMMIT moves KEY1 and double_speed. -/
theorem RegisterStep.mono {i : Instr} {s t : State} (h : RegisterStep i s t) (hi : WellFormed false i = true)
    (hreset : i ≠ .reset) (ha : s.transferActive = false) :
    ColourFrame s t ∧ (i ≠ .commit → t.key1 = s.key1 ∧ t.doubleSpeed = s.doubleSpeed) := by
  cases h
  case keep h => exact ⟨h.colour, fun _ => ⟨h.key1, h.doubleSpeed⟩⟩
  case boot v =>
    have h := writeBoot_busFrame v s
    exact ⟨(setBootRomMapped_colourFrame _ s).trans h.colour, fun _ => ⟨h.key1, h.doubleSpeed⟩⟩
  case tick =>
    rw [hblankTick_idle ha]
    exact ⟨(BusFrame.refl s).colour, fun _ => ⟨rfl, rfl⟩⟩
  case commit => exact ⟨commitSwitch_colourFrame s, fun hne => absurd rfl hne⟩
  case reset => exact absurd rfl hreset
  case key1 | vbk | hdma1 | hdma2 | hdma3 | hdma4 | hdma5 | bcps | ocps | bcpd | ocpd => exact nomatch hi

/-- One operation of a run in monochrome mode. -/
theorem exec_mono {i : Instr} {s t : State} (h : exec i s = .next t) (hi : WellFormed false i = true)
    (hreset : i ≠ .reset) (ha : s.transferActive = false) :
    ColourFrame s t ∧ (i ≠ .commit → t.key1 = s.key1 ∧ t.doubleSpeed = s.doubleSpeed) := by
  rcases exec_registerStep h with rfl | hstep
  · exact ⟨(setResult_busFrame none s).colour, fun _ => ⟨rfl, rfl⟩⟩
  · obtain ⟨hframe, hspeed⟩ := hstep.mono hi hreset ha
    exact ⟨(setResult_busFrame none s).colour.trans hframe, hspeed⟩

/-- Settles O60: the decoded operation exists in monochrome mode, and its word tells RESET and COMMIT apart. -/
theorem monochromeModeReachesNoColourRegister : Obligations.MonochromeModeReachesNoColourRegister := by
  intro s t w rest hmono ha hp hw hstep
  have hall : ColourFrame s t ∧ (w ≠ 0x50000000#32 → t.key1 = s.key1 ∧ t.doubleSpeed = s.doubleSpeed) := by
    rcases hd : decode s.params.cgbMode w with e | i
    · rw [step_of_decode_error hp hd] at hstep
      obtain rfl := Host.Outcome.next.inj hstep
      exact ⟨(setPending_colourFrame rest s).trans (refuseWord_colourFrame w _), fun _ => ⟨rfl, rfl⟩⟩
    · rw [step_of_decode_ok hp hd] at hstep
      rw [hmono] at hd
      obtain ⟨hi, henc⟩ := decodedWordsReencode false w i hd
      have hreset : i ≠ .reset := by rintro rfl; exact hw henc.symm
      obtain ⟨hframe, hspeed⟩ := exec_mono hstep hi hreset ha
      exact ⟨(setPending_colourFrame rest s).trans hframe, fun hw' => hspeed (by rintro rfl; exact hw' henc.symm)⟩
  obtain ⟨hframe, hspeed⟩ := hall
  exact ⟨hframe.vbk, hframe.bcps, hframe.ocps, hframe.bgpal, hframe.objpal, hframe.hdma1, hframe.hdma2, hframe.hdma3,
    hframe.hdma4, hframe.hdma5, hframe.transferActive.trans ha, hframe.curSrc, hframe.curDst, hspeed⟩

end Sys2Proof.Machine
end

section
/-! PROOFS. What a step never takes back (R7, R301, D37; O57). One relation holds across every access, every register
update and so across every copy: the parameters stay, the lists grow at their front, and answers are used up in order. -/

namespace Sys2Proof.Machine

/-- From `s` to `t` nothing is taken back, the fault apart. -/
structure Grows (s t : State) : Prop where
  params : t.params = s.params
  events : ∃ es, t.events = es ++ s.events
  reads : ∃ rs, t.reads = rs ++ s.reads
  refusals : ∃ ws, t.refusals = ws ++ s.refusals
  answers : ∃ n, t.replies = s.replies.drop n ∧ t.draws = s.draws + n

/-- A register update leaves all of it alone. -/
theorem Grows.of_eq {s t : State} (hp : t.params = s.params) (he : t.events = s.events) (hr : t.reads = s.reads)
    (hw : t.refusals = s.refusals) (ha : t.replies = s.replies) (hd : t.draws = s.draws) : Grows s t :=
  ⟨hp, ⟨[], he⟩, ⟨[], hr⟩, ⟨[], hw⟩, ⟨0, ha, hd⟩⟩

theorem Grows.refl (s : State) : Grows s s := .of_eq rfl rfl rfl rfl rfl rfl

theorem exists_append_trans {α : Type} {l m n : List α} (h : ∃ es, m = es ++ l) (k : ∃ es, n = es ++ m) :
    ∃ es, n = es ++ l := by
  obtain ⟨es, rfl⟩ := h
  obtain ⟨fs, rfl⟩ := k
  exact ⟨fs ++ es, (List.append_assoc fs es l).symm⟩

theorem Grows.trans {s t u : State} (h : Grows s t) (k : Grows t u) : Grows s u where
  params := k.params.trans h.params
  events := exists_append_trans h.events k.events
  reads := exists_append_trans h.reads k.reads
  refusals := exists_append_trans h.refusals k.refusals
  answers := by
    obtain ⟨n, hn, hd⟩ := h.answers
    obtain ⟨m, hm, hd'⟩ := k.answers
    exact ⟨n + m, by rw [hm, hn, List.drop_drop], by rw [hd', hd, Nat.add_assoc]⟩

/-! ### The elementary updates -/

theorem emit_grows (e : Event) (s : State) : Grows s (s.emit e) :=
  ⟨rfl, ⟨[e], rfl⟩, ⟨[], rfl⟩, ⟨[], rfl⟩, ⟨0, rfl, rfl⟩⟩

theorem noteRead_grows (p : Port) (a : Addr) (s : State) : Grows s (s.noteRead p a) :=
  ⟨rfl, ⟨[], rfl⟩, ⟨[(p, a)], rfl⟩, ⟨[], rfl⟩, ⟨0, rfl, rfl⟩⟩

theorem noteRefusal_grows (w : OpWord) (s : State) : Grows s (s.noteRefusal w) :=
  ⟨rfl, ⟨[], rfl⟩, ⟨[], rfl⟩, ⟨[w], rfl⟩, ⟨0, rfl, rfl⟩⟩

theorem takeReply_grows (s : State) : Grows s (takeReply s) :=
  ⟨rfl, ⟨[], rfl⟩, ⟨[], rfl⟩, ⟨[], rfl⟩, ⟨1, List.drop_one.symm, rfl⟩⟩

theorem setResult_grows (r : Option Result) (s : State) : Grows s (s.setResult r) := .of_eq rfl rfl rfl rfl rfl rfl

theorem setPending_grows (ws : List OpWord) (s : State) : Grows s (s.setPending ws) := .of_eq rfl rfl rfl rfl rfl rfl

theorem raiseFault_grows (f : BlockFault) (s : State) : Grows s (raiseFault f s) := .of_eq rfl rfl rfl rfl rfl rfl

theorem setVram_grows (b : Bank) (m : Memory) (s : State) : Grows s (s.setVram b m) :=
  .of_eq (by simp) (by simp) (by simp) (by simp) (by simp) (by simp)

theorem writeVram_grows (b : Bank) (a : Addr) (v : Byte) (s : State) : Grows s (writeVram b a v s) :=
  (setVram_grows b _ s).trans (emit_grows _ _)

/-! ### Accesses and copies -/

theorem extRead_grows (p : Port) (a : Addr) (s : State) : Grows s (extRead p a s).2 :=
  (takeReply_grows s).trans (noteRead_grows p a _)

theorem storeRead_grows (a : Addr) (s : State) : Grows s (storeRead a s).2 := by
  unfold storeRead
  split
  · exact (extRead_grows .store a s).trans (raiseFault_grows _ _)
  · exact extRead_grows .store a s

theorem readAudio_grows (a : Addr) (s : State) : Grows s (readAudio a s).2 := by
  unfold readAudio
  split
  · exact extRead_grows .audio a s
  · exact Grows.refl s

theorem readAccess_grows (a : Addr) (h : ReadHandler) (s : State) : Grows s (readAccess a h s).2 := by
  cases h
  case timer | lcd | wramBank => exact extRead_grows _ _ s
  case audio => exact readAudio_grows a s
  case oamDma | boot | generic => exact storeRead_grows _ s
  case hdma1 | hdma2 | hdma3 | hdma4 => exact raiseFault_grows _ s
  case key1 | vbk | hdma5 | bcps | bcpd | ocps | ocpd => exact Grows.refl s

theorem memRead_grows (a : Addr) (s : State) : Grows s (memRead a s).2 := by
  unfold memRead
  split
  · exact Grows.refl s
  · split
    · rw [routerRead_eq]
      exact readAccess_grows a _ s
    · exact extRead_grows .sys a s

theorem memWrite_grows {a : Addr} (v : Byte) (s : State) (h : a.toNat < 0xA800) : Grows s (memWrite a v s) := by
  rw [memWrite_low v s h]
  split
  · exact writeVram_grows _ a v s
  · exact emit_grows _ s

theorem copyBytes_grows (n : Nat) (src dst : Addr) (s : State) (h : dst.toNat + n ≤ 0xA800) :
    Grows s (copyBytes n src dst s) :=
  copyBytes_rel Grows Grows.refl (fun _ _ _ => Grows.trans) memRead_grows (fun _ v s h => memWrite_grows v s h)
    n src dst s h

/-! ### The operations -/

theorem afterCopy_grows {rest : State → State} (hrest : ∀ s, Grows s (rest s)) (s : State) :
    Grows s (afterCopy rest s) := by
  unfold afterCopy
  split
  · exact Grows.refl s
  · exact hrest s

theorem countDown_grows (s : State) : Grows s (countDown s) := by
  unfold countDown
  split <;> exact .of_eq rfl rfl rfl rfl rfl rfl

theorem advanceCursors_grows (s : State) : Grows s (advanceCursors s) := .of_eq rfl rfl rfl rfl rfl rfl

theorem mirrorCursors_grows (s : State) : Grows s (mirrorCursors s) := .of_eq rfl rfl rfl rfl rfl rfl

theorem chunkDone_grows (s : State) : Grows s (chunkDone s) :=
  ((advanceCursors_grows s).trans (mirrorCursors_grows _)).trans (countDown_grows _)

theorem setHdmaDone_grows (s : State) : Grows s (setHdmaDone s) := .of_eq rfl rfl rfl rfl rfl rfl

theorem hblankTick_grows (s : State) : Grows s (hblankTick s) := by
  rcases ha : s.transferActive with _ | _
  · rw [hblankTick_idle ha]
    exact Grows.refl s
  · have hcopy : Grows s (copyChunk s) := copyBytes_grows 16 _ _ s (chunk_bound _)
    rw [hblankTick_eq ha]
    exact hcopy.trans (afterCopy_grows chunkDone_grows _)

theorem writeHdma5_grows (v : Byte) (s : State) : Grows s (writeHdma5 v s) := by
  rcases ha : s.transferActive with _ | _ <;> rcases hv : v.getLsbD 7 with _ | _
  · have hcopy : Grows s (generalCopy v s) := copyBytes_grows _ _ _ s (generalPurpose_bound _ _ v)
    rw [writeHdma5_idle_bitClear ha hv, generalPurpose_eq]
    exact hcopy.trans (afterCopy_grows setHdmaDone_grows _)
  · rw [writeHdma5_idle_bitSet ha hv]
    exact .of_eq rfl rfl rfl rfl rfl rfl
  · rw [writeHdma5_active_bitClear ha hv]
    exact .of_eq rfl rfl rfl rfl rfl rfl
  · rw [writeHdma5_active_bitSet ha hv]
    exact .of_eq rfl rfl rfl rfl rfl rfl

theorem storeWrite_grows (a : Addr) (v : Byte) (s : State) : Grows s (storeWrite a v s) := by
  unfold storeWrite
  split
  · exact (takeReply_grows s).trans (raiseFault_grows _ _)
  · exact (takeReply_grows s).trans (emit_grows _ _)

theorem effect_write_grows (h : WriteHandler) (a : Addr) (v : Byte) (s : State) : Grows s (effect (h.instr a v) s) := by
  cases h
  case timer | lcd | oamDma | wramBank => exact emit_grows _ s
  case audio =>
    simp only [WriteHandler.instr, effect, writeAudio]
    split
    · exact emit_grows _ s
    · exact Grows.refl s
  case lcdPal =>
    simp only [WriteHandler.instr, effect, writeLcdPal]
    split
    · exact emit_grows _ s
    · exact (emit_grows _ s).trans (emit_grows _ _)
  case boot =>
    simp only [WriteHandler.instr, effect, writeBoot]
    split
    · exact ⟨rfl, ⟨[.bootRomUnmap], rfl⟩, ⟨[], rfl⟩, ⟨[], rfl⟩, ⟨0, rfl, rfl⟩⟩
    · exact storeWrite_grows _ v s
  case generic => exact storeWrite_grows a v s
  case hdma5 => exact writeHdma5_grows v s
  case bcpd | ocpd => exact ⟨rfl, ⟨[.cacheClear], rfl⟩, ⟨[], rfl⟩, ⟨[], rfl⟩, ⟨0, rfl, rfl⟩⟩
  case key1 | vbk | hdma1 | hdma2 | hdma3 | hdma4 | bcps | ocps => exact .of_eq rfl rfl rfl rfl rfl rfl

theorem vramPortRead_grows (b : Bank) (a : Addr) (s : State) : Grows s (vramPortRead b a s) := by
  unfold vramPortRead
  split
  · exact setResult_grows _ s
  · exact raiseFault_grows _ s

theorem resolveColour_grows (m : PalMem) (p c : BitVec 4) (s : State) : Grows s (resolveColour m p c s) := by
  unfold resolveColour
  split
  · exact raiseFault_grows _ s
  · exact setResult_grows _ s

theorem effect_grows (i : Instr) (s : State) : Grows s (effect i s) := by
  induction i using Instr.portCases with
  | read h a =>
    rw [effect_read]
    exact (readAccess_grows a h s).trans (setResult_grows _ _)
  | write h a v => exact effect_write_grows h a v s
  | vrd a => exact vramPortRead_grows s.vbk a s
  | vwr a v =>
    rw [effect]
    rcases ha : inVram a with _ | _
    · rw [vramPortWrite_out ha]
      exact raiseFault_grows _ s
    · rw [vramPortWrite_in ha]
      exact writeVram_grows _ a v s
  | vrdb b a => exact vramPortRead_grows b a s
  | resolveBg p c => exact resolveColour_grows .bg p c s
  | resolveObj p c => exact resolveColour_grows .obj p c s
  | tick => exact hblankTick_grows s
  | commit =>
    rw [effect, commitSwitch]
    split <;> exact .of_eq rfl rfl rfl rfl rfl rfl
  | reset => exact .of_eq rfl rfl rfl rfl rfl rfl

theorem exec_grows {i : Instr} {s t : State} (h : exec i s = .next t) :
    Grows s t ∧ ∀ f, s.fault = some f → t.fault = some f := by
  rcases exec_cases h with ⟨-, rfl⟩ | ⟨hf, rfl⟩
  · exact ⟨setResult_grows none s, fun _ h => h⟩
  · refine ⟨(setResult_grows none s).trans (effect_grows i _), fun f h => ?_⟩
    rw [hf] at h
    exact nomatch h

theorem step_grows {s t : State} (h : step s = .next t) : Grows s t ∧ ∀ f, s.fault = some f → t.fault = some f := by
  obtain ⟨w, rest, -, ⟨e, -, rfl⟩ | ⟨i, -, hexec⟩⟩ := step_cases h
  · exact ⟨((setPending_grows rest s).trans (noteRefusal_grows w _)).trans (setResult_grows none _), fun _ h => h⟩
  · obtain ⟨hgrows, hfault⟩ := exec_grows hexec
    exact ⟨(setPending_grows rest s).trans hgrows, hfault⟩

/-- Settles O57: every step grows, and keeps a fault that is set. -/
theorem noStepTakesAnythingBack : Obligations.NoStepTakesAnythingBack := by
  intro s t h
  obtain ⟨⟨hparams, hevents, hreads, hrefusals, hanswers⟩, hfault⟩ := step_grows h
  exact ⟨hparams, hfault, hevents, hreads, hrefusals, hanswers⟩

end Sys2Proof.Machine
end

section
/-! PROOFS. The renderer's events: CACHE_CLEAR (R90; O58) and TILE_DIRTY (R91; O59). Outside the engine both are read off
the events listed for each operation; a copy drives no CACHE_CLEAR, and announces each byte of VRAM it changes. -/

namespace Sys2Proof.Machine

/-! ### CACHE_CLEAR -/

theorem storeOutputs_count_cacheClear (a : Addr) (v : Byte) (s : State) :
    (storeOutputs a v s).count .cacheClear = 0 := by
  unfold storeOutputs
  split <;> rfl

/-- How many of a bus write's events are CACHE_CLEAR. -/
def writeClears (cgb : Bool) : WriteHandler → Nat
  | .bcpd | .ocpd => 1
  | .lcdPal => if cgb then 0 else 1
  | _ => 0

theorem writeOutputs_count_cacheClear (h : WriteHandler) (a : Addr) (v : Byte) (s : State) :
    (writeOutputs a v s h).count .cacheClear = writeClears s.params.cgbMode h := by
  cases h
  case audio =>
    rw [writeOutputs]
    split <;> rfl
  case lcdPal =>
    rw [writeOutputs, writeClears]
    split <;> rfl
  case boot =>
    rw [writeOutputs, bootOutputs]
    split
    · rfl
    · exact storeOutputs_count_cacheClear _ v s
  case generic => exact storeOutputs_count_cacheClear a v s
  case timer | lcd | oamDma | wramBank | key1 | vbk | hdma1 | hdma2 | hdma3 | hdma4 | hdma5 | bcps | ocps | bcpd | ocpd =>
    rfl

theorem Emits.count_cacheClear {es : List Event} {s t : State} (h : Emits es s t) :
    t.events.count .cacheClear = s.events.count .cacheClear + es.count .cacheClear := by
  rw [h.events, List.count_append, Nat.add_comm]

/-- No copy drives CACHE_CLEAR. -/
theorem copyBytes_count_cacheClear (n : Nat) (src dst : Addr) (s : State) (h : dst.toNat + n ≤ 0xA800) :
    (copyBytes n src dst s).events.count .cacheClear = s.events.count .cacheClear := by
  refine copyBytes_rel (fun s t => t.events.count .cacheClear = s.events.count .cacheClear) (fun _ => rfl)
    (fun _ _ _ h k => k.trans h) (fun a s => by rw [(memRead_spec a s).events]) (fun a v s ha => ?_) n src dst s h
  rw [memWrite_low v s ha]
  split <;> simp [writeVram, extWrite]

theorem engine_count_cacheClear {i : Instr} (hm : mayCopy i) (s : State) :
    (effect i s).events.count .cacheClear = s.events.count .cacheClear := by
  rcases engine_emits hm s with ⟨-, h⟩ | ⟨c, hc, h⟩
  · exact h.count_cacheClear
  · exact h.count_cacheClear.trans (copyBytes_count_cacheClear _ _ _ s (copyOf_bound hc).2)

/-- The events of VWR: the TILE_DIRTY of its byte, or none with its fault. -/
def vwrOutputs (a : Addr) (s : State) : List Event := if inVram a then [.tileDirty s.vbk a] else []

theorem vramPortWrite_events (a : Addr) (v : Byte) (s : State) :
    (vramPortWrite a v s).events = vwrOutputs a s ++ s.events := by
  unfold vramPortWrite vwrOutputs
  split
  · rw [writeVram_eq]
    rfl
  · rfl

/-- Settles O58: the count of CACHE_CLEAR among the events each operation adds. -/
theorem cacheClearIsEmittedExactlyThen : Obligations.CacheClearIsEmittedExactlyThen := by
  intro i s t hf hexec
  rw [exec_running i hf] at hexec
  obtain rfl := Host.Outcome.next.inj hexec
  induction i using Instr.portCases with
  | read h a =>
    have hnone := (effect_read_emits h a (s.setResult none)).count_cacheClear
    cases h <;> exact hnone
  | write h a v =>
    by_cases hh : h = .hdma5
    · subst hh
      exact engine_count_cacheClear (.inr ⟨v, rfl⟩) _
    · have hcount := (effect_write_emits hh a v (s.setResult none)).count_cacheClear
      rw [writeOutputs_count_cacheClear] at hcount
      cases h <;> exact hcount
  | vrd a => exact (vramPortRead_emits _ a _).count_cacheClear
  | vwr a v =>
    have hevents := vramPortWrite_events a v (s.setResult none)
    rw [effect, hevents, List.count_append, vwrOutputs]
    split <;> simp
  | vrdb b a => exact (vramPortRead_emits b a _).count_cacheClear
  | resolveBg p c => exact (resolveColour_emits .bg p c _).count_cacheClear
  | resolveObj p c => exact (resolveColour_emits .obj p c _).count_cacheClear
  | tick => exact engine_count_cacheClear (.inl rfl) _
  | commit => exact (commitSwitch_emits _).count_cacheClear
  | reset => rfl

/-! ### TILE_DIRTY -/

/-- The events added from `s` to `t` announce every changed byte of VRAM, and only bytes of the active bank's window. -/
structure Announces (es : List Event) (s t : State) : Prop where
  events : t.events = es ++ s.events
  changed : ∀ (b : Bank) (a : Addr), inVram a = true → readVram b a t ≠ readVram b a s → .tileDirty b a ∈ es
  named : ∀ (b : Bank) (a : Addr), .tileDirty b a ∈ es → inVram a = true ∧ b = s.vbk

/-- Where VRAM is left alone there is nothing to announce. -/
theorem Emits.announces {es : List Event} {s t : State} (h : Emits es s t) (hes : ∀ b a, .tileDirty b a ∉ es) :
    Announces es s t where
  events := h.events
  changed b a _ hne := absurd (readVram_congr h.vram b a) hne
  named b a hmem := absurd hmem (hes b a)

theorem Emits.announces_nil {s t : State} (h : Emits [] s t) : Announces [] s t := h.announces (fun _ _ => List.not_mem_nil)

theorem Announces.trans {es fs : List Event} {s t u : State} (h : Announces es s t) (hv : t.vbk = s.vbk)
    (k : Announces fs t u) : Announces (fs ++ es) s u where
  events := by rw [k.events, h.events, List.append_assoc]
  changed b a ha hne := by
    rw [List.mem_append]
    by_cases hu : readVram b a u = readVram b a t
    · exact .inr (h.changed b a ha (hu ▸ hne))
    · exact .inl (k.changed b a ha hu)
  named b a hmem := by
    rcases List.mem_append.mp hmem with hf | he
    · exact hv ▸ k.named b a hf
    · exact h.named b a he

theorem writeVram_announces {s : State} (hs : s.VramWf) {a : Addr} (ha : inVram a = true) (v : Byte) :
    Announces [.tileDirty s.vbk a] s (writeVram s.vbk a v s) where
  events := by rw [writeVram_eq]; rfl
  changed b a' ha' hne := by
    rw [readVram_writeVram hs _ b ha ha' v] at hne
    obtain ⟨rfl, rfl⟩ := (ite_ne_right_iff.mp hne).1
    exact List.mem_singleton.mpr rfl
  named b a' hmem := by
    obtain ⟨rfl, rfl⟩ := Event.tileDirty.inj (List.mem_singleton.mp hmem)
    exact ⟨ha, rfl⟩

theorem memWrite_announces {s : State} (hs : s.VramWf) {a : Addr} (ha : a.toNat < 0xA800) (v : Byte) :
    ∃ es, Announces es s (memWrite a v s) := by
  rw [memWrite_low v s ha]
  split
  case isTrue hin => exact ⟨_, writeVram_announces hs hin v⟩
  case isFalse => exact ⟨_, (extWrite_emits .sys a v s).announces (by simp)⟩

/-- A copy announces what it changes, whether or not a fault ends it. -/
theorem copyBytes_announces (n : Nat) (src dst : Addr) {s : State} (hs : s.VramWf) (h : dst.toNat + n ≤ 0xA800) :
    ∃ es, Announces es s (copyBytes n src dst s) := by
  refine (copyBytes_rel (fun s t => s.VramWf → t.VramWf ∧ t.vbk = s.vbk ∧ ∃ es, Announces es s t) ?_ ?_ ?_ ?_
    n src dst s h hs).2.2
  · exact fun s hs => ⟨hs, rfl, [], (Emits.none s).announces_nil⟩
  · intro s t u hst htu hs
    obtain ⟨ht, hv, es, hes⟩ := hst hs
    obtain ⟨hu, hv', fs, hfs⟩ := htu ht
    exact ⟨hu, hv'.trans hv, _, hes.trans hv hfs⟩
  · intro a s hs
    have hr := memRead_spec a s
    have hemits : Emits [] s (memRead a s).2 := ⟨hr.vram0, hr.vram1, hr.events⟩
    exact ⟨hemits.vramWf hs, hr.frame.vbk, [], hemits.announces_nil⟩
  · exact fun a v s ha hs => ⟨memWrite_vramWf v hs ha, (memWrite_frame v s ha).vbk, memWrite_announces hs ha v⟩

theorem engine_announces {i : Instr} (hm : mayCopy i) {s : State} (hs : s.VramWf) :
    ∃ es, Announces es s (effect i s) := by
  rcases engine_emits hm s with ⟨-, h⟩ | ⟨c, hc, h⟩
  · exact ⟨[], h.announces_nil⟩
  · obtain ⟨es, hes⟩ := copyBytes_announces c.len c.src c.dst hs (copyOf_bound hc).2
    have hv := (copyBytes_frame c.len c.src c.dst s (copyOf_bound hc).2).vbk
    exact ⟨_, hes.trans hv h.announces_nil⟩

theorem tileDirty_not_mem_storeOutputs (a : Addr) (v : Byte) (s : State) (b : Bank) (x : Addr) :
    .tileDirty b x ∉ storeOutputs a v s := by
  unfold storeOutputs
  split <;> simp

theorem tileDirty_not_mem_writeOutputs (h : WriteHandler) (a : Addr) (v : Byte) (s : State) (b : Bank) (x : Addr) :
    .tileDirty b x ∉ writeOutputs a v s h := by
  cases h
  case audio | lcdPal =>
    rw [writeOutputs]
    split <;> simp
  case boot =>
    rw [writeOutputs, bootOutputs]
    split
    · simp
    · exact tileDirty_not_mem_storeOutputs _ v s b x
  case generic => exact tileDirty_not_mem_storeOutputs a v s b x
  case timer | lcd | oamDma | wramBank | key1 | vbk | hdma1 | hdma2 | hdma3 | hdma4 | hdma5 | bcps | ocps | bcpd | ocpd =>
    simp [writeOutputs]

theorem effect_announces {i : Instr} (hi : i ≠ .reset) {s : State} (hs : s.VramWf) : ∃ es, Announces es s (effect i s) := by
  induction i using Instr.portCases with
  | read h a => exact ⟨[], (effect_read_emits h a s).announces_nil⟩
  | write h a v =>
    by_cases hh : h = .hdma5
    · subst hh
      exact engine_announces (.inr ⟨v, rfl⟩) hs
    · exact ⟨_, (effect_write_emits hh a v s).announces (tileDirty_not_mem_writeOutputs h a v s)⟩
  | vrd a => exact ⟨[], (vramPortRead_emits _ a s).announces_nil⟩
  | vwr a v =>
    rw [effect]
    rcases ha : inVram a with _ | _
    · rw [vramPortWrite_out ha]
      exact ⟨[], Emits.announces_nil ⟨rfl, rfl, rfl⟩⟩
    · rw [vramPortWrite_in ha]
      exact ⟨_, writeVram_announces hs ha v⟩
  | vrdb b a => exact ⟨[], (vramPortRead_emits b a s).announces_nil⟩
  | resolveBg p c => exact ⟨[], (resolveColour_emits .bg p c s).announces_nil⟩
  | resolveObj p c => exact ⟨[], (resolveColour_emits .obj p c s).announces_nil⟩
  | tick => exact engine_announces (.inl rfl) hs
  | commit => exact ⟨[], (commitSwitch_emits s).announces_nil⟩
  | reset => exact absurd rfl hi

/-- Settles O59: the events of a running operation announce its changes, and a faulted block changes nothing. -/
theorem vramChangesAreAnnounced : Obligations.VramChangesAreAnnounced := by
  intro i s t hinv hexec hi
  rcases exec_cases hexec with ⟨-, rfl⟩ | ⟨-, rfl⟩
  · exact ⟨[], rfl, fun _ _ _ hne => absurd rfl hne, fun _ _ hmem => absurd hmem List.not_mem_nil⟩
  · obtain ⟨es, hevents, hchanged, hnamed⟩ := effect_announces hi (hinv.setResult none).vramWf
    exact ⟨es, hevents, hchanged, hnamed⟩

end Sys2Proof.Machine
end

section
/-! PROOFS. The copy loop seen from its last byte, and the addresses it runs over (R80, R251, R256, R303). The laws of
`copyBytes` unfold it at the first byte; here a copy of `n + 1` bytes is one of `n` bytes and then one more. -/

namespace Sys2Proof.Machine

/-! ### Addresses -/

theorem nth_toNat {a : Addr} {i : Nat} (h : a.toNat + i < 65536) : (nth a i).toNat = a.toNat + i := by
  rw [nth, BitVec.toNat_add, BitVec.toNat_ofNat]
  omega

theorem inVram_nth {a : Addr} {i : Nat} (hlo : 0x8000 ≤ a.toNat) (hhi : a.toNat + i < 0xA000) : inVram (nth a i) = true := by
  rw [inVram_iff, nth_toNat (by omega)]
  omega

/-- The bytes of a chunk lie in the window, whatever the cursor is (R256). -/
theorem inVram_chunkDst (c : Addr) {i : Nat} (hi : i < 16) : inVram (nth (0x8000#16 ||| (c &&& 0x1FF0#16)) i) = true := by
  refine inVram_nth ?_ ?_
  · rw [BitVec.toNat_or]
    exact Nat.left_le_or
  · have := chunkDst_bound c
    omega

/-- The last address of an engine's copy is at most 0xA7EF, and a chunk's lies in the window (R82). -/
theorem copyOf_end {i : Instr} {s : State} {c : Transfer} (h : copyOf i s = some c) :
    c.dst.toNat + c.len ≤ 0xA7F0 ∧ (i = .tick → c.dst.toNat + c.len ≤ 0xA000) := by
  cases i <;> simp only [copyOf, reduceCtorEq] at h
  case wrHdma5 v =>
    split at h
    · exact nomatch h
    · obtain rfl := Option.some.inj h
      have := hdmaDst_bound s.hdma3 s.hdma4
      have := hdmaLen_bound v
      exact ⟨by dsimp only; omega, nofun⟩
  case tick =>
    split at h
    · obtain rfl := Option.some.inj h
      have := chunkDst_bound s.curDst
      exact ⟨by dsimp only; omega, fun _ => this⟩
    · exact nomatch h

/-! ### Prefixes of a copy -/

/-- One more byte: its read, and its write unless the read faults. -/
theorem copyBytes_snoc (n : Nat) : ∀ (src dst : Addr) {s : State}, s.fault = none → dst.toNat + (n + 1) ≤ 0xA800 →
    (copyBytes n src dst s).fault = none →
    copyBytes (n + 1) src dst s =
      match memRead (nth src n) (copyBytes n src dst s) with
      | (none, s₁) => s₁
      | (some b, s₁) => memWrite (nth dst n) b s₁ := by
  induction n with
  | zero =>
    intro src dst s hs h _
    rw [copyBytes_succ src dst (by omega) hs, nth_zero, nth_zero]
    rfl
  | succ n ih =>
    intro src dst s hs h hf
    obtain ⟨hd, hd'⟩ := copy_step_bound h
    have hr := memRead_spec src s
    rw [copyBytes_succ src dst hd hs] at hf
    rw [copyBytes_succ src dst hd hs, copyBytes_succ src dst hd hs]
    rcases hm : memRead src s with ⟨_ | b, s₁⟩
    · rw [hm] at hr hf
      exact absurd hf (Option.isSome_iff_ne_none.mp (hr.failed rfl).1)
    · rw [hm] at hr hf
      have hs' : (memWrite dst b s₁).fault = none := by rw [memWrite_fault b s₁ hd, (hr.ok b rfl).1, hs]
      rw [nth_succ, nth_succ]
      exact ih (src + 1#16) (dst + 1#16) hs' hd' hf

/-- The beginning of a copy that met no fault met none. -/
theorem copyBytes_prefix_fault {k n : Nat} (hk : k ≤ n) {src dst : Addr} {s : State} (hs : s.fault = none)
    (h : dst.toNat + n ≤ 0xA800) (hf : (copyBytes n src dst s).fault = none) : (copyBytes k src dst s).fault = none := by
  induction n generalizing k src dst s with
  | zero =>
    obtain rfl := Nat.le_zero.mp hk
    exact hf
  | succ n ih =>
    obtain ⟨hd, hd'⟩ := copy_step_bound h
    have hr := memRead_spec src s
    cases k with
    | zero => exact hs
    | succ k =>
      rw [copyBytes_succ src dst hd hs] at hf ⊢
      rcases hm : memRead src s with ⟨_ | b, s₁⟩
      · rw [hm] at hf
        exact hf
      · rw [hm] at hr hf
        have hs' : (memWrite dst b s₁).fault = none := by rw [memWrite_fault b s₁ hd, (hr.ok b rfl).1, hs]
        exact ih (Nat.le_of_succ_le_succ hk) hs' hd' hf

/-- In a copy that met no fault every byte was read. -/
theorem copyBytes_read_some {n : Nat} {src dst : Addr} {s : State} (hs : s.fault = none) (h : dst.toNat + n ≤ 0xA800)
    (hf : (copyBytes n src dst s).fault = none) {j : Nat} (hj : j < n) :
    (memRead (nth src j) (copyBytes j src dst s)).1 ≠ none := by
  have hbefore := copyBytes_prefix_fault (Nat.le_of_lt hj) hs h hf
  have hafter := copyBytes_prefix_fault hj hs h hf
  have hr := memRead_spec (nth src j) (copyBytes j src dst s)
  intro hnone
  rw [copyBytes_snoc j src dst hs (by omega) hbefore] at hafter
  rcases hm : memRead (nth src j) (copyBytes j src dst s) with ⟨_ | b, s₁⟩
  · rw [hm] at hr hafter
    exact Option.isSome_iff_ne_none.mp (hr.failed rfl).1 hafter
  · rw [hm] at hnone
    exact nomatch hnone

/-- A copy whose reads cannot fault meets no fault. -/
theorem copyBytes_no_fault {n : Nat} {src dst : Addr} {s : State} (hs : s.fault = none) (h : dst.toNat + n ≤ 0xA800)
    (hread : ∀ j < n, ∀ u, BusFrame s u → (memRead (nth src j) u).1 ≠ none) : (copyBytes n src dst s).fault = none := by
  by_contra hf
  obtain ⟨k, hk, -, hstop⟩ := copyBytes_stop n src dst hs h hf
  exact hread k hk _ (copyBytes_frame k src dst s (by omega)) (congrArg Prod.fst hstop)

/-- Every output event of a copy, whether or not a fault ends it, is the one of some byte written. -/
theorem copyBytes_emitted (n : Nat) (src dst : Addr) {s : State} (hs : s.fault = none) (h : dst.toNat + n ≤ 0xA800) :
    ∃ es, (copyBytes n src dst s).events = es ++ s.events ∧ ∀ e ∈ es, ∃ j < n,
      (inVram (nth dst j) = true ∧ e = .tileDirty s.vbk (nth dst j)) ∨
        (inVram (nth dst j) = false ∧ ∃ x, e = .extWrite .sys (nth dst j) x) := by
  by_cases hf : (copyBytes n src dst s).fault = none
  · obtain ⟨es, hes, -, hall⟩ := copyBytes_events n src dst hs h hf
    exact ⟨es, hes, hall⟩
  · obtain ⟨k, hk, hok, hstop⟩ := copyBytes_stop n src dst hs h hf
    obtain ⟨es, hes, -, hall⟩ := copyBytes_events k src dst hs (by omega) hok
    have hr := (memRead_spec (nth src k) (copyBytes k src dst s)).events
    rw [hstop, hes] at hr
    refine ⟨es, hr, fun e he => ?_⟩
    obtain ⟨j, hj, hcase⟩ := hall e he
    exact ⟨j, hj.trans hk, hcase⟩

/-! ### The result of a copy -/

theorem memRead_result {a : Addr} {s : State} (h : s.result = none) : (memRead a s).2.result = none := by
  have hr := memRead_spec a s
  rcases hm : (memRead a s).1 with _ | b
  · exact (hr.failed hm).2
  · exact (hr.ok b hm).2.trans h

theorem copyBytes_result (n : Nat) (src dst : Addr) {s : State} (h : dst.toNat + n ≤ 0xA800) (hs : s.result = none) :
    (copyBytes n src dst s).result = none :=
  copyBytes_rel (fun s t => s.result = none → t.result = none) (fun _ h => h) (fun _ _ _ h k hs => k (h hs))
    (fun _ _ hs => memRead_result hs) (fun _ v s ha hs => (memWrite_result v s ha).trans hs) n src dst s h hs

theorem countDown_result (s : State) : (countDown s).result = s.result := by
  unfold countDown
  split <;> rfl

theorem chunkDone_result (s : State) : (chunkDone s).result = s.result := by
  simp [chunkDone, countDown_result, mirrorCursors, advanceCursors]

theorem afterCopy_result {rest : State → State} (hrest : ∀ s, (rest s).result = s.result) (s : State) :
    (afterCopy rest s).result = s.result := by
  unfold afterCopy
  split
  · rfl
  · exact hrest s

/-- TICK and WR HDMA5 return nothing. -/
theorem engine_result {i : Instr} (hm : mayCopy i) {s : State} (hs : s.result = none) : (effect i s).result = none := by
  rcases hm with rfl | ⟨v, rfl⟩
  · rw [effect]
    rcases ha : s.transferActive with _ | _
    · rw [hblankTick_idle ha]
      exact hs
    · rw [hblankTick_eq ha, afterCopy_result chunkDone_result]
      exact copyBytes_result 16 _ _ (chunk_bound _) hs
  · rw [effect]
    rcases ha : s.transferActive with _ | _ <;> rcases hv : v.getLsbD 7 with _ | _
    · rw [writeHdma5_idle_bitClear ha hv, generalPurpose_eq, afterCopy_result (rest := setHdmaDone) (fun _ => rfl)]
      exact copyBytes_result _ _ _ (generalPurpose_bound _ _ v) hs
    · rw [writeHdma5_idle_bitSet ha hv]
      exact hs
    · rw [writeHdma5_active_bitClear ha hv]
      exact hs
    · rw [writeHdma5_active_bitSet ha hv]
      exact hs

theorem engine_engineFrame {i : Instr} (hm : mayCopy i) (s : State) : EngineFrame s (effect i s) := by
  rcases hm with rfl | ⟨v, rfl⟩
  · exact hblankTick_engineFrame s
  · exact writeHdma5_engineFrame v s

/-- The whole record: a state framed by `s` is `s` with the fields the engine may change. -/
theorem EngineFrame.eq {s t : State} (h : EngineFrame s t) :
    t = { s with hdma1 := t.hdma1, hdma2 := t.hdma2, hdma3 := t.hdma3, hdma4 := t.hdma4, hdma5 := t.hdma5,
                 transferActive := t.transferActive, curSrc := t.curSrc, curDst := t.curDst, vram0 := t.vram0,
                 vram1 := t.vram1, fault := t.fault, replies := t.replies, draws := t.draws, reads := t.reads,
                 events := t.events, result := t.result } := by
  cases s; cases t
  obtain ⟨hparams, hvbk, hbcps, hocps, hbgpal, hobjpal, hkey1, hspeed, hboot, hpending, hrefusals⟩ := h
  simp only at *
  subst hparams hvbk hbcps hocps hbgpal hobjpal hkey1 hspeed hboot hpending hrefusals
  rfl

/-! ### Answers drawn during a copy -/

/-- After `n` answers the next ones are those from the `n`-th on. -/
theorem answer_of_drawn {s t : State} {n : Nat} (hr : t.replies = s.replies.drop n) (hd : t.draws = s.draws + n) (i : Nat) :
    answer t i = answer s (n + i) := by
  rw [answer, answer, hr, hd, List.getElem?_drop, Nat.add_assoc]

theorem answerFails_of_drawn {s t : State} {n : Nat} (hr : t.replies = s.replies.drop n) (hd : t.draws = s.draws + n)
    (i : Nat) : answerFails t i = answerFails s (n + i) := by
  rw [answerFails, answerFails, hr, hd, List.getElem?_drop, Nat.add_assoc]

end Sys2Proof.Machine
end

section
/-! PROOFS. The engine's accesses and copies: O41 to O48. -/

namespace Sys2Proof.Machine

/-! ### The controller (R240; O41) -/

/-- No operation but WR HDMA5, TICK and RESET moves the controller. -/
theorem RegisterStep.transferActive_eq {i : Instr} {s t : State} (h : RegisterStep i s t) (hm : ¬ mayCopy i)
    (hr : i ≠ .reset) : t.transferActive = s.transferActive := by
  cases h
  case keep h => exact h.transferActive
  case boot v => exact (writeBoot_busFrame v s).transferActive
  case hdma5 v => exact absurd (.inr ⟨v, rfl⟩) hm
  case tick => exact absurd (.inl rfl) hm
  case reset => exact absurd rfl hr
  case commit =>
    unfold commitSwitch
    split <;> rfl
  case key1 | vbk | hdma1 | hdma2 | hdma3 | hdma4 | bcps | ocps | bcpd | ocpd => rfl

theorem setHdmaDone_transferActive (s : State) : (setHdmaDone s).transferActive = s.transferActive := rfl

theorem setHdmaDone_hdma5 (s : State) : (setHdmaDone s).hdma5 = 0xFF#8 := rfl

theorem writeHdma5_transferActive (v : Byte) (s : State) : (writeHdma5 v s).transferActive = v.getLsbD 7 := by
  rcases ha : s.transferActive with _ | _ <;> rcases hv : v.getLsbD 7 with _ | _
  · have hcopy : (generalCopy v s).transferActive = false := (generalCopy_frame v s).transferActive.trans ha
    rw [writeHdma5_idle_bitClear ha hv, generalPurpose_eq, afterCopy]
    split
    · exact hcopy
    · exact (setHdmaDone_transferActive _).trans hcopy
  · rw [writeHdma5_idle_bitSet ha hv]
    rfl
  · rw [writeHdma5_active_bitClear ha hv]
    rfl
  · rw [writeHdma5_active_bitSet ha hv]
    exact ha

/-- A tick that leaves no fault completed its chunk. -/
theorem hblankTick_done {s : State} (ha : s.transferActive = true) (hf : (hblankTick s).fault = none) :
    (copyChunk s).fault = none ∧ hblankTick s = chunkDone (copyChunk s) := by
  rw [hblankTick_eq ha] at hf ⊢
  by_cases hc : (copyChunk s).fault = none
  · exact ⟨hc, afterCopy_done _ hc⟩
  · rw [afterCopy_stopped _ hc] at hf
    exact absurd hf hc

/-- A general-purpose transfer that leaves no fault completed its copy. -/
theorem generalPurpose_done {v : Byte} {s : State} (hf : (generalPurpose v s).fault = none) :
    (generalCopy v s).fault = none ∧ generalPurpose v s = setHdmaDone (generalCopy v s) := by
  rw [generalPurpose_eq] at hf ⊢
  by_cases hc : (generalCopy v s).fault = none
  · exact ⟨hc, afterCopy_done _ hc⟩
  · rw [afterCopy_stopped _ hc] at hf
    exact absurd hf hc

theorem countDown_transferActive {s : State} (ha : s.transferActive = true) :
    (countDown s).transferActive = (hdmaLow7 s.hdma5 != 0#8) := by
  unfold countDown
  split
  case isTrue h => simp [h]
  case isFalse h => simp [h, ha]

theorem chunkDone_transferActive {s : State} (ha : s.transferActive = true) :
    (chunkDone s).transferActive = (hdmaLow7 s.hdma5 != 0#8) := by
  have hactive : (mirrorCursors (advanceCursors s)).transferActive = true := by simp [mirrorCursors, advanceCursors, ha]
  have hcount : (mirrorCursors (advanceCursors s)).hdma5 = s.hdma5 := by simp [mirrorCursors, advanceCursors]
  rw [chunkDone, countDown_transferActive hactive, hcount]

theorem hblankTick_transferActive {s : State} (hf : (hblankTick s).fault = none) :
    (hblankTick s).transferActive = (s.transferActive && hdmaLow7 s.hdma5 != 0#8) := by
  rcases ha : s.transferActive with _ | _
  · rw [hblankTick_idle ha]
    exact ha
  · have hframe := copyChunk_frame s
    rw [(hblankTick_done ha hf).2, chunkDone_transferActive (hframe.transferActive.trans ha), hframe.hdma5]
    rfl

/-- Settles O41: WR HDMA5 and TICK by their cases, RESET by its effect, and no other operation moves the controller. -/
theorem controllerTransitions : Obligations.ControllerTransitions := by
  intro i s t hf hexec ht
  rw [exec_running i hf] at hexec
  obtain rfl := Host.Outcome.next.inj hexec
  have hstep := effect_registerStep i (s.setResult none)
  cases i
  case wrHdma5 v => exact writeHdma5_transferActive v _
  case tick => exact hblankTick_transferActive ht
  case reset => rfl
  all_goals exact hstep.transferActive_eq (by rintro (h | ⟨v, h⟩) <;> exact nomatch h) (fun h => nomatch h)

/-! ### The routing of the engine's reads (R81; O42) -/

theorem memRead_router {a : Addr} {s : State} (hv : inVram a = false) (hw : inRouterWindow s.params a = true) :
    memRead a s = readAccess a (readHandler s.params.cgbMode a) s := by
  rw [memRead, if_neg (Bool.eq_false_iff.mp hv), if_pos hw, routerRead_eq]

/-- Settles O42: each region's access; a router read is the access of the row a bus read of the address decodes to. -/
theorem dmaReadsAreRoutedByTheMap : Obligations.DmaReadsAreRoutedByTheMap := by
  intro s a hf hres
  refine ⟨memRead_vram, fun hext => ?_, fun hv hw => ⟨_, decode_rd a s.params.cgbMode, ?_⟩⟩
  · rw [memRead_external hext, extRead, nextReply_eq]
    rfl
  · have hcleared : s.setResult none = s := by rw [← hres]; rfl
    rw [exec_read _ a hf, hcleared, memRead_router hv hw]
    rfl

/-! ### The engine's writes (R82; O43) -/

theorem engine_outputs {i : Instr} (hm : mayCopy i) {s : State} (hf : s.fault = none) :
    ∃ es, (effect i s).events = es ++ s.events ∧ ∀ e ∈ es,
      (∃ a, e = .tileDirty s.vbk a ∧ inVram a = true) ∨
      (∃ v a x, i = .wrHdma5 v ∧ e = .extWrite .sys a x ∧ 0xA000 ≤ a.toNat ∧ a.toNat ≤ 0xA7EF) := by
  rcases engine_emits hm s with ⟨-, h⟩ | ⟨c, hc, h⟩
  · exact ⟨[], h.events, fun e he => absurd he List.not_mem_nil⟩
  · obtain ⟨hlo, hhi⟩ := copyOf_bound hc
    obtain ⟨hend, htick⟩ := copyOf_end hc
    obtain ⟨es, hes, hall⟩ := copyBytes_emitted c.len c.src c.dst hf hhi
    refine ⟨es, h.events.trans hes, fun e he => ?_⟩
    obtain ⟨j, hj, ⟨hin, rfl⟩ | ⟨hout, x, rfl⟩⟩ := hall e he
    · exact .inl ⟨_, rfl, hin⟩
    · have haddr : (nth c.dst j).toNat = c.dst.toNat + j := nth_toNat (by omega)
      have hbeyond : 0xA000 ≤ (nth c.dst j).toNat := by
        by_contra hlt
        rw [inVram_nth hlo (by omega)] at hout
        exact nomatch hout
      rcases hm with rfl | ⟨v, rfl⟩
      · have := htick rfl
        omega
      · exact .inr ⟨v, _, x, rfl, rfl, hbeyond, by omega⟩

/-- Settles O43: the outputs are those of the copy, whose addresses stay between 0x8000 and 0xA7EF. -/
theorem dmaWritesNeverReachTheRouter : Obligations.DmaWritesNeverReachTheRouter := by
  refine ⟨fun i s t hm hexec => ?outputs, fun p h3 h4 v i hi => ?general, fun c i hi => inVram_chunkDst c hi⟩
  case outputs =>
    rcases exec_cases hexec with ⟨-, rfl⟩ | ⟨hf, rfl⟩
    · exact ⟨⟨[], rfl, fun e he => absurd he List.not_mem_nil⟩, rfl⟩
    · refine ⟨engine_outputs (s := s.setResult none) hm hf, ?_⟩
      have heq := (engine_engineFrame hm (s.setResult none)).eq
      rw [engine_result (s := s.setResult none) hm rfl] at heq
      exact heq
  case general =>
    have hdst := hdmaDst_bound h3 h4
    have hlen := hdmaLen_bound v
    have haddr : (nth (hdmaDst h3 h4) i).toNat = (hdmaDst h3 h4).toNat + i := nth_toNat (by omega)
    exact ⟨by omega, by omega, inRouterWindow_low p (by omega)⟩

/-! ### General-purpose transfers (R251; O44, O45, O47, O48) -/

theorem exec_generalPurpose {v : Byte} {s : State} (hf : s.fault = none) (ha : s.transferActive = false)
    (hv : v.getLsbD 7 = false) : exec (.wrHdma5 v) s = .next (generalPurpose v (s.setResult none)) := by
  have heffect : effect (.wrHdma5 v) (s.setResult none) = generalPurpose v (s.setResult none) :=
    writeHdma5_idle_bitClear ha hv
  rw [exec_running _ hf, heffect]

/-- A completed transfer's record: the copy's, with the five registers 0xFF. -/
theorem setHdmaDone_eq {s u : State} (h : BusFrame s u) : setHdmaDone u =
    { s with hdma1 := 0xFF#8, hdma2 := 0xFF#8, hdma3 := 0xFF#8, hdma4 := 0xFF#8, hdma5 := 0xFF#8, vram0 := u.vram0,
             vram1 := u.vram1, fault := u.fault, replies := u.replies, draws := u.draws, events := u.events,
             reads := u.reads, result := u.result } := by
  conv_lhs => rw [h.eq]
  rfl

/-- What a copy of the engine leaves in VRAM outside its destination. -/
theorem copyBytes_elsewhere {n : Nat} {src dst : Addr} {s : State} (hs : s.VramWf) (h : dst.toNat + n ≤ 0xA800) {b : Bank}
    {a : Addr} (ha : inVram a = true) (hout : b ≠ s.vbk ∨ ∀ i < n, a ≠ nth dst i) :
    readVram b a (copyBytes n src dst s) = readVram b a s :=
  copyBytes_outside n src dst hs h b a ha (fun hb => hout.resolve_left (not_not.mpr hb))

theorem generalCopy_result (v : Byte) {s : State} (hs : s.result = none) : (generalCopy v s).result = none :=
  copyBytes_result _ _ _ (generalPurpose_bound _ _ v) hs

theorem generalCopy_elsewhere {v : Byte} {s : State} (hw : s.VramWf) {b : Bank} {a : Addr} (ha : inVram a = true)
    (hout : b ≠ s.vbk ∨ ∀ i < hdmaLen v, a ≠ nth (hdmaDst s.hdma3 s.hdma4) i) :
    readVram b a (generalCopy v s) = readVram b a s :=
  copyBytes_elsewhere hw (generalPurpose_bound _ _ v) ha hout

theorem generalCopy_copied {v : Byte} {s : State} (hw : s.VramWf) (hs : s.fault = none)
    (hf : (generalCopy v s).fault = none) :
    Copied ⟨hdmaSrc s.hdma1 s.hdma2, hdmaDst s.hdma3 s.hdma4, hdmaLen v⟩ s (generalCopy v s) :=
  copyBytes_copied _ _ _ hw hs (generalPurpose_bound _ _ v) hf

theorem readVram_setHdmaDone (b : Bank) (a : Addr) (s : State) : readVram b a (setHdmaDone s) = readVram b a s := rfl

/-- Settles O45: the copy is whole, leaves the rest of VRAM alone, and the five registers become 0xFF. -/
theorem generalPurposeFrame : Obligations.GeneralPurposeFrame := by
  intro s t v hinv hf ha hv hexec ht
  rw [exec_generalPurpose hf ha hv] at hexec
  obtain rfl := Host.Outcome.next.inj hexec
  obtain ⟨hcopy, hdone⟩ := generalPurpose_done ht
  rw [hdone]
  have hwf : (s.setResult none).VramWf := (hinv.setResult none).vramWf
  have hresult : (generalCopy v (s.setResult none)).result = none := generalCopy_result v rfl
  refine ⟨?_, fun b a hin hout => ?_, ?_⟩
  · exact (generalCopy_copied hwf hf hcopy).congr (setHdmaDone_vram _) (setHdmaDone_events _)
  · exact (readVram_setHdmaDone b a _).trans (generalCopy_elsewhere hwf hin hout)
  · rw [setHdmaDone_eq (generalCopy_frame v (s.setResult none)), hcopy, hresult, ← hf]
    rfl

/-- In a copy from the external bus byte `i` is the `i`-th answer: what it leaves of the collaborators and the events. -/
structure ExternalCopy (n : Nat) (src dst : Addr) (s t : State) : Prop where
  fault : t.fault = none
  replies : t.replies = s.replies.drop n
  draws : t.draws = s.draws + n
  reads : t.reads = ((List.range n).map fun i => (Port.sys, nth src i)).reverse ++ s.reads
  events : t.events = ((List.range n).map fun i =>
    if inVram (nth dst i) then Event.tileDirty s.vbk (nth dst i)
    else Event.extWrite .sys (nth dst i) (answer s i)).reverse ++ s.events

/-- One byte read from the external bus. -/
theorem memRead_external_answer {n : Nat} {a : Addr} {s u : State} (hext : isExternal u.params a = true)
    (hr : u.replies = s.replies.drop n) (hd : u.draws = s.draws + n) :
    memRead a u = (some (answer s n), (takeReply u).noteRead .sys a) := by
  rw [memRead_external hext, extRead, nextReply_eq, answer_of_drawn hr hd, Nat.add_zero]

theorem memWrite_ports {a : Addr} (h : a.toNat < 0xA800) (v : Byte) (s : State) :
    (memWrite a v s).replies = s.replies ∧ (memWrite a v s).draws = s.draws ∧ (memWrite a v s).reads = s.reads ∧
    (memWrite a v s).events =
      (if inVram a then Event.tileDirty s.vbk a else Event.extWrite .sys a v) :: s.events := by
  rw [memWrite_low v s h]
  split
  · simp [writeVram]
  · exact ⟨rfl, rfl, rfl, rfl⟩

theorem copyBytes_external {n : Nat} {src dst : Addr} {s : State} (hs : s.fault = none) (h : dst.toNat + n ≤ 0xA800)
    (hext : ∀ i < n, isExternal s.params (nth src i) = true) : ExternalCopy n src dst s (copyBytes n src dst s) := by
  induction n with
  | zero => exact ⟨hs, rfl, rfl, rfl, rfl⟩
  | succ n ih =>
    have hcopy := ih (by omega) (fun i hi => hext i (by omega))
    have hframe := copyBytes_frame n src dst s (by omega)
    have hread := memRead_external_answer (hframe.params ▸ hext n (by omega)) hcopy.replies hcopy.draws
    have hd : (nth dst n).toNat < 0xA800 := by rw [nth_toNat (by omega)]; omega
    have hlast : copyBytes (n + 1) src dst s =
        memWrite (nth dst n) (answer s n) ((takeReply (copyBytes n src dst s)).noteRead .sys (nth src n)) := by
      rw [copyBytes_snoc n src dst hs h hcopy.fault, hread]
    obtain ⟨hreplies, hdraws, hreads, hevents⟩ := memWrite_ports hd (answer s n)
      ((takeReply (copyBytes n src dst s)).noteRead .sys (nth src n))
    rw [hlast]
    constructor
    · rw [memWrite_fault _ _ hd]
      exact hcopy.fault
    · rw [hreplies, State.noteRead_replies, takeReply_replies, hcopy.replies, List.tail_drop]
    · rw [hdraws, State.noteRead_draws, takeReply_draws, hcopy.draws, Nat.add_assoc]
    · rw [hreads, List.range_succ, List.map_append, List.reverse_append]
      exact congrArg _ hcopy.reads
    · rw [hevents, List.range_succ, List.map_append, List.reverse_append]
      simp only [State.noteRead_vbk, takeReply_vbk, hframe.vbk]
      exact congrArg _ hcopy.events

/-- The bytes a copy from the external bus leaves in VRAM are the answers. -/
theorem copyBytes_external_bytes {n : Nat} {src dst : Addr} {s : State} (hw : s.VramWf) (hs : s.fault = none)
    (h : dst.toNat + n ≤ 0xA800) (hext : ∀ i < n, isExternal s.params (nth src i) = true) {i : Nat} (hi : i < n)
    (hin : inVram (nth dst i) = true) : readVram s.vbk (nth dst i) (copyBytes n src dst s) = answer s i := by
  have hwritten := copyBytes_written n src dst hw hs h (copyBytes_external hs h hext).fault i hi hin
  have hbefore := copyBytes_external (n := i) (src := src) (dst := dst) hs (by omega) (fun j hj => hext j (hj.trans hi))
  have hframe := copyBytes_frame i src dst s (by omega)
  rw [memRead_external_answer (hframe.params ▸ hext i hi) hbefore.replies hbefore.draws] at hwritten
  exact (Option.some.inj hwritten).symm

theorem generalCopy_external {v : Byte} {s : State} (hs : s.fault = none)
    (hext : ∀ i < hdmaLen v, isExternal s.params (nth (hdmaSrc s.hdma1 s.hdma2) i) = true) :
    ExternalCopy (hdmaLen v) (hdmaSrc s.hdma1 s.hdma2) (hdmaDst s.hdma3 s.hdma4) s (generalCopy v s) :=
  copyBytes_external hs (generalPurpose_bound _ _ v) hext

theorem generalCopy_external_bytes {v : Byte} {s : State} (hw : s.VramWf) (hs : s.fault = none)
    (hext : ∀ i < hdmaLen v, isExternal s.params (nth (hdmaSrc s.hdma1 s.hdma2) i) = true) {i : Nat} (hi : i < hdmaLen v)
    (hin : inVram (nth (hdmaDst s.hdma3 s.hdma4) i) = true) :
    readVram s.vbk (nth (hdmaDst s.hdma3 s.hdma4) i) (generalCopy v s) = answer s i :=
  copyBytes_external_bytes hw hs (generalPurpose_bound _ _ v) hext hi hin

/-- Settles O44: the transfer is a copy from the external bus, with the five registers 0xFF after it. -/
theorem generalPurposeCopiesExternalBytes : Obligations.GeneralPurposeCopiesExternalBytes := by
  rintro s v _ _ _ hinv hf ha hv rfl rfl rfl hext
  have hwf : (s.setResult none).VramWf := (hinv.setResult none).vramWf
  have hcopy := generalCopy_external (v := v) (s := s.setResult none) hf hext
  have hresult : (generalCopy v (s.setResult none)).result = none := generalCopy_result v rfl
  refine ⟨setHdmaDone (generalCopy v (s.setResult none)), ?_, fun i hi hin => ?_, fun b a hin hout => ?_, ?_⟩
  · rw [exec_generalPurpose hf ha hv, generalPurpose_eq, afterCopy_done _ hcopy.fault]
  · exact (readVram_setHdmaDone _ _ _).trans (generalCopy_external_bytes hwf hf hext hi hin)
  · exact (readVram_setHdmaDone b a _).trans (generalCopy_elsewhere hwf hin hout)
  · rw [setHdmaDone_eq (generalCopy_frame v (s.setResult none)), hcopy.fault, hresult, hcopy.replies, hcopy.draws,
      hcopy.reads, hcopy.events, ← hf]
    rfl

/-- A copy within VRAM meets no fault. -/
theorem copyBytes_vram_no_fault {n : Nat} {src dst : Addr} {s : State} (hs : s.fault = none)
    (h : dst.toNat + n ≤ 0xA800) (hsrc : ∀ i < n, inVram (nth src i) = true) : (copyBytes n src dst s).fault = none := by
  refine copyBytes_no_fault hs h fun j hj u _ => ?_
  rw [memRead_vram (hsrc j hj)]
  exact Option.some_ne_none _

/-- Byte `j` of a copy to 16 bytes above its source: the source's own byte in the first chunk, and after it the byte 16
places before, already copied. -/
theorem overlap_byte {n : Nat} {src : Addr} {s : State} (hw : s.VramWf) (hs : s.fault = none) (hlo : 0x8000 ≤ src.toNat)
    (hhi : src.toNat + 16 + n ≤ 0xA000) (j : Nat) (hj : j < n) :
    readVram s.vbk (nth (src + 16#16) j) (copyBytes n src (src + 16#16) s) = readVram s.vbk (nth src (j % 16)) s := by
  have hdst : (src + 16#16).toNat = src.toNat + 16 := by rw [toNat_add_16]; omega
  have hsrcIn : ∀ i < n, inVram (nth src i) = true := fun i hi => inVram_nth hlo (by omega)
  have hdstIn : ∀ i < n, inVram (nth (src + 16#16) i) = true := fun i hi => inVram_nth (by omega) (by omega)
  induction j using Nat.strong_induction_on generalizing n with
  | _ j ih =>
    have hwritten := copyBytes_written n src (src + 16#16) hw hs (by omega)
      (copyBytes_vram_no_fault hs (by omega) hsrcIn) j hj (hdstIn j hj)
    have hvbk := (copyBytes_frame j src (src + 16#16) s (by omega)).vbk
    rw [memRead_vram (hsrcIn j hj), hvbk] at hwritten
    rw [← Option.some.inj hwritten]
    by_cases hfirst : j < 16
    · rw [Nat.mod_eq_of_lt hfirst]
      refine copyBytes_elsewhere hw (by omega) (hsrcIn j hj) (.inr fun i hi heq => ?_)
      have := congrArg BitVec.toNat heq
      rw [nth_toNat (by omega), nth_toNat (by omega)] at this
      omega
    · have hback : nth src j = nth (src + 16#16) (j - 16) := by
        apply BitVec.eq_of_toNat_eq
        rw [nth_toNat (by omega), nth_toNat (by omega)]
        omega
      rw [hback, ih (j - 16) (by omega) (by omega) (by omega) (fun i hi => hsrcIn i (hi.trans hj))
        (fun i hi => hdstIn i (hi.trans hj)), Nat.mod_eq_sub_mod (by omega : 16 ≤ j)]

/-- Settles O47: the transfer is such a copy, within VRAM throughout. -/
theorem overlappingCopyRepeatsTheFirstChunk : Obligations.OverlappingCopyRepeatsTheFirstChunk := by
  rintro s v _ hinv hf ha hv rfl hdst hlo hhi
  have hwf : (s.setResult none).VramWf := (hinv.setResult none).vramWf
  have hcopyEq : generalCopy v (s.setResult none) =
      copyBytes (hdmaLen v) (hdmaSrc s.hdma1 s.hdma2) (hdmaSrc s.hdma1 s.hdma2 + 16#16) (s.setResult none) := by
    rw [generalCopy, ← hdst]
    rfl
  have hcopy : (generalCopy v (s.setResult none)).fault = none := by
    have hbound := generalPurpose_bound s.hdma3 s.hdma4 v
    rw [hdst] at hbound
    rw [hcopyEq]
    exact copyBytes_vram_no_fault hf hbound (fun i hi => inVram_nth hlo (by omega))
  refine ⟨setHdmaDone (generalCopy v (s.setResult none)), ?_, (setHdmaDone_fault _).trans hcopy, setHdmaDone_hdma5 _,
    fun i hi => ?_⟩
  · rw [exec_generalPurpose hf ha hv, generalPurpose_eq, afterCopy_done _ hcopy]
  · rw [readVram_setHdmaDone, hcopyEq]
    exact overlap_byte hwf hf hlo hhi i hi

/-- In colour mode the engine's read of 0xFF51 faults. -/
theorem memRead_hdma1 {s : State} (hc : s.params.cgbMode = true) : (memRead 0xFF51#16 s).1 = none := by
  have hwindow : inRouterWindow s.params 0xFF51#16 = true := rfl
  have hrow : readHandler true 0xFF51#16 = .hdma1 := rfl
  rw [memRead_router rfl hwindow, hc, hrow]
  rfl

/-- Settles O48: in a transfer without a fault every byte was read, and a read of 0xFF51 yields none. -/
theorem copyFromTheAddressHalvesFaults : Obligations.CopyFromTheAddressHalvesFaults := by
  rintro s t v hf ha hv hc ⟨i, hi, haddr⟩ hexec ht
  rw [exec_generalPurpose hf ha hv] at hexec
  obtain rfl := Host.Outcome.next.inj hexec
  have hbound := generalPurpose_bound s.hdma3 s.hdma4 v
  have hread : (memRead (nth (hdmaSrc s.hdma1 s.hdma2) i) (copyBytes i (hdmaSrc s.hdma1 s.hdma2)
      (hdmaDst s.hdma3 s.hdma4) (s.setResult none))).1 ≠ none :=
    copyBytes_read_some (s := s.setResult none) hf hbound (generalPurpose_done ht).1 hi
  have hparams := (copyBytes_frame i (hdmaSrc s.hdma1 s.hdma2) (hdmaDst s.hdma3 s.hdma4) (s.setResult none)
    (by omega)).params
  rw [haddr] at hread
  exact hread (memRead_hdma1 (hparams ▸ hc))

/-! ### A fault inside a copy (R303; O46) -/

theorem copyOf_setResult (i : Instr) (s : State) (r : Option Result) : copyOf i (s.setResult r) = copyOf i s := by
  cases i <;> rfl

/-- An engine operation that leaves a fault left the state of the read that faulted. -/
theorem engine_stop {i : Instr} (hm : mayCopy i) {s : State} (hs : s.fault = none) (hf : (effect i s).fault ≠ none) :
    ∃ c k, copyOf i s = some c ∧ k < c.len ∧ c.dst.toNat + c.len ≤ 0xA800 ∧
      effect i s = copyBytes c.len c.src c.dst s ∧ (copyBytes k c.src c.dst s).fault = none ∧
      memRead (nth c.src k) (copyBytes k c.src c.dst s) = (none, effect i s) := by
  rcases copying_cases hm hs with ⟨-, hnone, -⟩ | ⟨c, hc, -, hbound, -, ⟨hcopy, heq⟩ | ⟨-, hnone, -⟩⟩
  · exact absurd hnone hf
  · obtain ⟨k, hk, hok, hstop⟩ := copyBytes_stop c.len c.src c.dst hs hbound hcopy
    exact ⟨c, k, hc, hk, hbound, heq, hok, heq ▸ hstop⟩
  · exact absurd hnone hf

/-- Settles O46: the copy of the bytes before the faulting read, which alone comes after them. -/
theorem faultInsideACopyStopsIt : Obligations.FaultInsideACopyStopsIt := by
  intro i s t f hinv hf hm hexec ht
  rw [exec_running i hf] at hexec
  obtain rfl := Host.Outcome.next.inj hexec
  have hwf : (s.setResult none).VramWf := (hinv.setResult none).vramWf
  obtain ⟨c, k, hc, hk, hbound, heq, hok, hstop⟩ := engine_stop (s := s.setResult none) hm hf (by rw [ht]; nofun)
  have hread := memRead_spec (nth c.src k) (copyBytes k c.src c.dst (s.setResult none))
  rw [hstop] at hread
  have hvram := hread.vram
  obtain ⟨es, hes, hlen, -⟩ := copyBytes_events k c.src c.dst (s := s.setResult none) hf (by omega) hok
  refine ⟨?_, c, k, (copyOf_setResult i s none).symm.trans hc, hk, hok, hstop, fun j hj hin => ?_, fun b a hin hout => ?_,
    es, hread.events.trans hes, hlen⟩
  · have hframe : BusFrame (s.setResult none) (effect i (s.setResult none)) := heq ▸ copyBytes_frame _ _ _ _ hbound
    have hrecord := hframe.eq
    rw [ht, (hread.failed rfl).2] at hrecord
    exact hrecord
  · have hwritten := copyBytes_written k c.src c.dst hwf hf (by omega) hok j hj hin
    exact hwritten.trans (congrArg some (readVram_congr hvram _ _).symm)
  · exact (readVram_congr hvram b a).trans (copyBytes_elsewhere hwf (by omega) hin hout)

end Sys2Proof.Machine
end

section
/-! PROOFS. The H-Blank tick (R255-R259; O49 to O51). From a state that meets the invariant the chunk's masks change
nothing, and the halves that mirror a cursor assemble to that cursor again. -/

namespace Sys2Proof.Machine

/-! ### The mirrored halves -/

theorem hdmaSrc_halves (c : Addr) : hdmaSrc (c.extractLsb' 8 8) (c.extractLsb' 0 8) = c &&& 0xFFF0#16 := by
  have hmask : (0xFFF0#16 : Addr) = 0xFF#8 ++ 0xF0#8 := rfl
  have hall : c.extractLsb' 8 8 &&& 0xFF#8 = c.extractLsb' 8 8 := BitVec.and_allOnes
  conv_rhs => rw [← entry_eq_append c, hmask, BitVec.and_append, hall]
  exact hdmaSrc_eq_append _ _

theorem hdmaDst_halves (c : Addr) :
    hdmaDst (c.extractLsb' 8 8) (c.extractLsb' 0 8) = 0x8000#16 ||| (c &&& 0x1FF0#16) := by
  have hmask : (0x1FF0#16 : Addr) = 0x1F#8 ++ 0xF0#8 := rfl
  have hbase : (0x8000#16 : Addr) = 0x80#8 ++ 0x00#8 := rfl
  conv_rhs => rw [← entry_eq_append c, hmask, hbase, BitVec.and_append, BitVec.or_append, BitVec.zero_or]
  rw [hdmaDst_eq_hdmaSrc, hdmaSrc_eq_append]

theorem masked_inDstWindow {c : Addr} (h : InDstWindow c) : 0x8000#16 ||| (c &&& 0x1FF0#16) = c := masked_dst h.1 h.2

/-! ### One tick -/

/-- The chunk of an Active engine is copied from cursor to cursor. -/
theorem copyChunk_eq {s : State} (h : EngineInv s) (ha : s.transferActive = true) :
    copyChunk s = copyBytes 16 s.curSrc s.curDst s := by
  rw [copyChunk, masked_src (h.src_aligned ha), masked_inDstWindow (h.dst_window ha)]

/-- The registers' step after a chunk, as a record. -/
theorem chunkDone_eq {s : State} (ha : s.transferActive = true) (h5 : s.hdma5.getLsbD 7 = false) : chunkDone s =
    { s with curSrc := nextSrc s.curSrc, curDst := nextDst s.curDst,
             hdma1 := (nextSrc s.curSrc).extractLsb' 8 8, hdma2 := (nextSrc s.curSrc).extractLsb' 0 8,
             hdma3 := (nextDst s.curDst).extractLsb' 8 8, hdma4 := (nextDst s.curDst).extractLsb' 0 8,
             transferActive := s.hdma5 != 0#8, hdma5 := if s.hdma5 = 0#8 then 0xFF#8 else s.hdma5 - 1#8 } := by
  have hlow : hdmaLow7 (mirrorCursors (advanceCursors s)).hdma5 = s.hdma5 := by
    simp [mirrorCursors, advanceCursors, hdmaLow7_of_bit7_clear h5]
  rw [chunkDone, countDown, hlow]
  by_cases h0 : s.hdma5 = 0#8
  · simp [h0, mirrorCursors, advanceCursors, State.setActive, State.setHdma1, State.setHdma2, State.setHdma3,
      State.setHdma4, State.setHdma5, State.setCursors]
  · simp [h0, ha, mirrorCursors, advanceCursors, State.setHdma1, State.setHdma2, State.setHdma3,
      State.setHdma4, State.setHdma5, State.setCursors]

/-- A copy of the engine changes no register, so the step after it is that of the state it began in. -/
theorem chunkDone_of_frame {s u : State} (h : BusFrame s u) (ha : s.transferActive = true)
    (h5 : s.hdma5.getLsbD 7 = false) : chunkDone u =
    { s with curSrc := nextSrc s.curSrc, curDst := nextDst s.curDst,
             hdma1 := (nextSrc s.curSrc).extractLsb' 8 8, hdma2 := (nextSrc s.curSrc).extractLsb' 0 8,
             hdma3 := (nextDst s.curDst).extractLsb' 8 8, hdma4 := (nextDst s.curDst).extractLsb' 0 8,
             transferActive := s.hdma5 != 0#8, hdma5 := if s.hdma5 = 0#8 then 0xFF#8 else s.hdma5 - 1#8,
             vram0 := u.vram0, vram1 := u.vram1, fault := u.fault, replies := u.replies, draws := u.draws,
             events := u.events, reads := u.reads, result := u.result } := by
  rw [chunkDone_eq (h.transferActive.trans ha) (by rw [h.hdma5]; exact h5), h.curSrc, h.curDst, h.hdma5]
  conv_lhs => rw [h.eq]

theorem exec_tick_active {s : State} (hf : s.fault = none) (ha : s.transferActive = true) :
    exec .tick s = .next (afterCopy chunkDone (copyChunk (s.setResult none))) := by
  have heffect : effect .tick (s.setResult none) = afterCopy chunkDone (copyChunk (s.setResult none)) :=
    hblankTick_eq (s := s.setResult none) ha
  rw [exec_running _ hf, heffect]

theorem exec_tick_idle {s : State} (hf : s.fault = none) (ha : s.transferActive = false) :
    exec .tick s = .next (s.setResult none) := by
  have heffect : effect .tick (s.setResult none) = s.setResult none := hblankTick_idle (s := s.setResult none) ha
  rw [exec_running _ hf, heffect]

theorem readVram_chunkDone (b : Bank) (a : Addr) (s : State) : readVram b a (chunkDone s) = readVram b a s :=
  readVram_congr (chunkDone_emits s).vram b a

theorem EngineInv.active_bit7 {s : State} (h : EngineInv s) (ha : s.transferActive = true) : s.hdma5.getLsbD 7 = false := by
  rw [h.idle_bit, ha]
  rfl

theorem EngineInv.dst_bound {s : State} (h : EngineInv s) (ha : s.transferActive = true) :
    0x8000 ≤ s.curDst.toNat ∧ s.curDst.toNat + 16 ≤ 0xA000 := by
  have hd := (inDstWindow_iff s.curDst).mp (h.dst_window ha)
  omega

theorem EngineInv.inVram_dst {s : State} (h : EngineInv s) (ha : s.transferActive = true) {i : Nat} (hi : i < 16) :
    inVram (nth s.curDst i) = true := by
  obtain ⟨hlo, hhi⟩ := h.dst_bound ha
  exact inVram_nth hlo (by omega)

/-- Settles O49: Idle nothing, Active the chunk's copy and then the registers' step. -/
theorem tickStepsTheCursorsAndTheCount : Obligations.TickStepsTheCursorsAndTheCount := by
  refine ⟨fun s hf ha => exec_tick_idle hf ha, fun s t hinv hf ha hexec ht => ?_⟩
  have heng := hinv.engine
  have hwf : (s.setResult none).VramWf := (hinv.setResult none).vramWf
  have hbound : s.curDst.toNat + 16 ≤ 0xA800 := by
    have := (heng.dst_bound ha).2
    omega
  have hchunk : copyChunk (s.setResult none) = copyBytes 16 s.curSrc s.curDst (s.setResult none) :=
    copyChunk_eq (hinv.setResult none).engine ha
  rw [exec_running _ hf] at hexec
  obtain rfl := Host.Outcome.next.inj hexec
  obtain ⟨hcopy, hdone⟩ := hblankTick_done (s := s.setResult none) ha ht
  have hframe := copyChunk_frame (s.setResult none)
  have hresult : (copyChunk (s.setResult none)).result = none := copyBytes_result 16 _ _ (chunk_bound _) rfl
  have hrecord := chunkDone_of_frame hframe ha (heng.active_bit7 ha)
  rw [hcopy.trans hf.symm, hresult] at hrecord
  rw [effect, hdone]
  have hsrc : (chunkDone (copyChunk (s.setResult none))).curSrc = nextSrc s.curSrc := by rw [hrecord]; rfl
  have hdst : (chunkDone (copyChunk (s.setResult none))).curDst = nextDst s.curDst := by rw [hrecord]; rfl
  refine ⟨hsrc, hdst, by rw [hrecord]; rfl, by rw [hrecord]; rfl, ?_, ?_, ?_, fun i hi => heng.inVram_dst ha hi,
    fun b a hin hout => ?_, ?_⟩
  · rw [hsrc, hrecord]
    exact (hdmaSrc_halves _).trans (masked_src (nextSrc_aligned (heng.src_aligned ha)))
  · rw [hdst, hrecord]
    exact (hdmaDst_halves _).trans (masked_inDstWindow (nextDst_inDstWindow (heng.dst_window ha)))
  · have hcopied := copyBytes_copied 16 s.curSrc s.curDst hwf hf hbound (hchunk ▸ hcopy)
    rw [← hchunk] at hcopied
    exact hcopied.congr (chunkDone_emits _).vram (chunkDone_emits _).events
  · rw [readVram_chunkDone, hchunk]
    exact copyBytes_elsewhere hwf hbound hin hout
  · rw [hrecord]
    rfl

/-- Settles O50: sixteen bytes from the external bus, and then the registers' step. -/
theorem tickCopiesOneExternalChunk : Obligations.TickCopiesOneExternalChunk := by
  intro s hinv hf ha hext
  have heng := hinv.engine
  have hwf : (s.setResult none).VramWf := (hinv.setResult none).vramWf
  have hbound : s.curDst.toNat + 16 ≤ 0xA800 := by
    have := (heng.dst_bound ha).2
    omega
  have hchunk : copyChunk (s.setResult none) = copyBytes 16 s.curSrc s.curDst (s.setResult none) :=
    copyChunk_eq (hinv.setResult none).engine ha
  have hcopy : ExternalCopy 16 s.curSrc s.curDst (s.setResult none) (copyChunk (s.setResult none)) := by
    rw [hchunk]
    exact copyBytes_external hf hbound hext
  have hrecord := chunkDone_of_frame (copyChunk_frame (s.setResult none)) ha (heng.active_bit7 ha)
  refine ⟨chunkDone (copyChunk (s.setResult none)), ?_, ?_, fun i hi => ?_, fun b a hin hout => ?_, ?_, ?_, ?_⟩
  · rw [exec_tick_active hf ha, afterCopy_done _ hcopy.fault]
  · rw [hrecord]
    exact hcopy.fault
  · rw [readVram_chunkDone, hchunk]
    exact copyBytes_external_bytes hwf hf hbound hext hi (heng.inVram_dst ha hi)
  · rw [readVram_chunkDone, hchunk]
    exact copyBytes_elsewhere hwf hbound hin hout
  · have hdirty : ∀ i ∈ List.range 16, (if inVram (nth s.curDst i) then Event.tileDirty s.vbk (nth s.curDst i)
        else Event.extWrite .sys (nth s.curDst i) (answer s i)) = Event.tileDirty s.vbk (nth s.curDst i) :=
      fun i hi => if_pos (heng.inVram_dst ha (List.mem_range.mp hi))
    rw [hrecord, ← List.map_congr_left hdirty]
    exact hcopy.events
  · rw [hrecord]
    exact hcopy.replies
  · rw [hrecord]
    exact hcopy.draws

/-! ### A paced transfer left alone (R259, R347) -/

theorem afterTicks_succ {n : Nat} {s t : State} (h : exec .tick s = .next t) : afterTicks (n + 1) s = afterTicks n t := by
  rw [afterTicks, h]

/-- Ticks keep a fault that is set. -/
theorem afterTicks_fault {n : Nat} {s : State} (h : (afterTicks n s).fault = none) : s.fault = none := by
  induction n generalizing s with
  | zero => exact h
  | succ n ih =>
    obtain ⟨t, ht⟩ := exec_next .tick s
    rw [afterTicks_succ ht] at h
    by_contra hf
    obtain ⟨f, hf⟩ := Option.ne_none_iff_exists'.mp hf
    have hkept := (exec_grows ht).2 f hf
    rw [ih h] at hkept
    exact nomatch hkept

/-- A tick of an Active engine that leaves no fault counts down by one, or ends the transfer at 0. -/
theorem exec_tick_counts {s t : State} (hinv : s.Inv) (hf : s.fault = none) (ha : s.transferActive = true)
    (hexec : exec .tick s = .next t) (ht : t.fault = none) :
    t.Inv ∧ t.transferActive = (s.hdma5 != 0#8) ∧ t.hdma5 = if s.hdma5 = 0#8 then 0xFF#8 else s.hdma5 - 1#8 := by
  obtain ⟨-, -, hactive, hcount, -⟩ := tickStepsTheCursorsAndTheCount.2 s t hinv hf ha hexec ht
  exact ⟨exec_inv hinv rfl hexec, hactive, hcount⟩

/-- An Active engine whose count is `m` is still Active, with `m - k` left, after `k ≤ m` ticks, and Idle after `m + 1`. -/
theorem afterTicks_counts (m : Nat) : ∀ {s : State}, s.Inv → s.transferActive = true → s.hdma5.toNat = m →
    (afterTicks (m + 1) s).fault = none →
    (∀ k ≤ m, (afterTicks k s).transferActive = true ∧ (afterTicks k s).hdma5.toNat = m - k) ∧
    (afterTicks (m + 1) s).transferActive = false ∧ (afterTicks (m + 1) s).hdma5 = 0xFF#8 := by
  induction m with
  | zero =>
    intro s hinv ha hcount hf
    have h0 : s.hdma5 = 0#8 := BitVec.eq_of_toNat_eq hcount
    obtain ⟨t, ht⟩ := exec_next .tick s
    have hsf := afterTicks_fault hf
    rw [afterTicks_succ ht] at hf ⊢
    obtain ⟨-, hactive, hcount'⟩ := exec_tick_counts hinv hsf ha ht (afterTicks_fault hf)
    rw [h0] at hactive hcount'
    refine ⟨fun k hk => ?_, hactive, hcount'⟩
    obtain rfl := Nat.le_zero.mp hk
    exact ⟨ha, hcount⟩
  | succ m ih =>
    intro s hinv ha hcount hf
    have h0 : s.hdma5 ≠ 0#8 := by
      intro h0
      rw [h0] at hcount
      exact nomatch hcount
    obtain ⟨t, ht⟩ := exec_next .tick s
    have hsf := afterTicks_fault hf
    rw [afterTicks_succ ht] at hf ⊢
    obtain ⟨htinv, hactive, hcount'⟩ := exec_tick_counts hinv hsf ha ht (afterTicks_fault hf)
    rw [if_neg h0] at hcount'
    have htcount : t.hdma5.toNat = m := by
      rw [hcount', BitVec.toNat_sub, hcount, BitVec.toNat_ofNat]
      have := s.hdma5.isLt
      omega
    obtain ⟨hbefore, hend⟩ := ih htinv (hactive.trans (bne_iff_ne.mpr h0)) htcount hf
    refine ⟨fun k hk => ?_, hend⟩
    cases k with
    | zero => exact ⟨ha, hcount⟩
    | succ k =>
      rw [afterTicks_succ ht, Nat.add_sub_add_right]
      exact hbefore k (Nat.le_of_succ_le_succ hk)

/-- Settles O51: StartPaced leaves an Active engine with count `v & 0x7F`, which the ticks count down. -/
theorem pacedTransferEndsAfterCountPlusOneTicks : Obligations.PacedTransferEndsAfterCountPlusOneTicks := by
  intro s u v hinv hf ha hc hv hexec hticks
  have huinv : u.Inv := exec_inv (i := .wrHdma5 v) hinv hc hexec
  rw [pacedStartLoadsTheCursors.2 s v hf ha hv] at hexec
  obtain rfl := Host.Outcome.next.inj hexec
  have hcount : (v &&& 0x7F#8).toNat = v.toNat % 128 := toNat_and_lowBits 7 v (by decide)
  rw [hdmaChunks_eq] at hticks ⊢
  obtain ⟨hbefore, hend⟩ := afterTicks_counts _ huinv rfl hcount hticks
  exact ⟨fun k hk => hbefore k (Nat.le_of_lt_succ hk), hend⟩

end Sys2Proof.Machine
end

section
/-! PROOFS. Where a fault comes from (R300, R303, R210; O11). A read faults at an address half, or at the store when its
answer is a failure; inside a copy that answer is among the first `k`, one at most being drawn by each byte before it. -/

namespace Sys2Proof.Machine

/-! ### Reads -/

/-- Why a read row taken at `a` faults. -/
inductive ReadFault (a : Addr) (h : ReadHandler) (s : State) : BlockFault → Prop
  | half (hh : h = .hdma1 ∨ h = .hdma2 ∨ h = .hdma3 ∨ h = .hdma4) : ReadFault a h s (.hdmaWoRead (h.wordAddr a))
  | store (hh : h = .generic ∨ h = .oamDma ∨ h = .boot) (hfail : answerFails s 0 = true) :
      ReadFault a h s (.storeFail (h.wordAddr a))

theorem storeRead_fault {a : Addr} {s : State} {f : BlockFault} (hs : s.fault = none)
    (hf : (storeRead a s).2.fault = some f) : answerFails s 0 = true ∧ f = .storeFail a := by
  rcases hfail : answerFails s 0 with _ | _
  · have hreply : ¬ (nextReply s).fails = true := by rw [nextReply_eq, Bool.not_eq_true]; exact hfail
    rw [storeRead, if_neg hreply] at hf
    exact nomatch hs.symm.trans hf
  · have hreply : (nextReply s).fails = true := by rw [nextReply_eq]; exact hfail
    rw [storeRead, if_pos hreply] at hf
    exact ⟨rfl, (Option.some.inj hf).symm⟩

theorem readAudio_fault (a : Addr) (s : State) : (readAudio a s).2.fault = s.fault := by
  unfold readAudio
  split <;> rfl

theorem readAccess_fault {a : Addr} {h : ReadHandler} {s : State} {f : BlockFault} (hs : s.fault = none)
    (hf : (readAccess a h s).2.fault = some f) : ReadFault a h s f := by
  cases h
  case generic | oamDma | boot =>
    obtain ⟨hfail, rfl⟩ := storeRead_fault hs hf
    exact .store (by simp) hfail
  case hdma1 | hdma2 | hdma3 | hdma4 =>
    obtain rfl := Option.some.inj hf
    exact .half (by simp)
  case audio => exact nomatch (hs.symm.trans (readAudio_fault a s).symm).trans hf
  case timer | lcd | wramBank | key1 | vbk | hdma5 | bcps | bcpd | ocps | ocpd => exact nomatch hs.symm.trans hf

/-- A read of the engine faults only at an address of the router, as a bus read of it does. -/
theorem memRead_fault {a : Addr} {s : State} {f : BlockFault} (hs : s.fault = none)
    (hf : (memRead a s).2.fault = some f) : inVram a = false ∧ inRouterWindow s.params a = true ∧
      ReadFault a (readHandler s.params.cgbMode a) s f := by
  rcases hv : inVram a with _ | _
  · rcases hw : inRouterWindow s.params a with _ | _
    · rw [memRead_external (by rw [isExternal, hv, hw]; rfl)] at hf
      exact nomatch hs.symm.trans hf
    · rw [memRead_router hv hw] at hf
      exact ⟨rfl, rfl, readAccess_fault hs hf⟩
  · rw [memRead_vram hv] at hf
    exact nomatch hs.symm.trans hf

/-- A row of an address half exists in colour mode only, at 0xFF51..0xFF54. -/
theorem readHandler_half {cgb : Bool} {a : Addr} (h : readHandler cgb a = .hdma1 ∨ readHandler cgb a = .hdma2 ∨
    readHandler cgb a = .hdma3 ∨ readHandler cgb a = .hdma4) : cgb = true ∧ 0xFF51 ≤ a.toNat ∧ a.toNat ≤ 0xFF54 := by
  obtain ⟨hwf, haddr⟩ := readHandler_names cgb a
  rcases h with h | h | h | h <;>
  · rw [h] at hwf haddr
    simp only [ReadHandler.wordAddr] at haddr
    subst haddr
    exact ⟨hwf, by decide⟩

/-! ### Answers drawn by a copy -/

/-- From `s` to `t` at most `k` answers were drawn. -/
def DrawsAtMost (k : Nat) (s t : State) : Prop := ∃ n ≤ k, t.replies = s.replies.drop n ∧ t.draws = s.draws + n

theorem DrawsAtMost.of_eq {s t : State} (k : Nat) (hr : t.replies = s.replies) (hd : t.draws = s.draws) :
    DrawsAtMost k s t := ⟨0, Nat.zero_le k, hr, hd⟩

theorem extRead_draws (p : Port) (a : Addr) (s : State) : DrawsAtMost 1 s (extRead p a s).2 :=
  ⟨1, le_refl 1, List.drop_one.symm, rfl⟩

theorem storeRead_draws (a : Addr) (s : State) : DrawsAtMost 1 s (storeRead a s).2 := by
  unfold storeRead
  split <;> exact ⟨1, le_refl 1, List.drop_one.symm, rfl⟩

theorem readAccess_draws (a : Addr) (h : ReadHandler) (s : State) : DrawsAtMost 1 s (readAccess a h s).2 := by
  cases h
  case timer | lcd | wramBank => exact extRead_draws _ _ s
  case audio =>
    rw [readAccess, readAudio]
    split
    · exact extRead_draws .audio a s
    · exact .of_eq 1 rfl rfl
  case oamDma | boot | generic => exact storeRead_draws _ s
  case hdma1 | hdma2 | hdma3 | hdma4 | key1 | vbk | hdma5 | bcps | bcpd | ocps | ocpd => exact .of_eq 1 rfl rfl

theorem memRead_draws (a : Addr) (s : State) : DrawsAtMost 1 s (memRead a s).2 := by
  unfold memRead
  split
  · exact .of_eq 1 rfl rfl
  · split
    · rw [routerRead_eq]
      exact readAccess_draws a _ s
    · exact extRead_draws .sys a s

theorem copyBytes_draws {n : Nat} {src dst : Addr} {s : State} (hs : s.fault = none) (h : dst.toNat + n ≤ 0xA800)
    (hf : (copyBytes n src dst s).fault = none) : DrawsAtMost n s (copyBytes n src dst s) := by
  induction n with
  | zero => exact .of_eq 0 rfl rfl
  | succ n ih =>
    have hbefore := copyBytes_prefix_fault (Nat.le_succ n) hs h hf
    obtain ⟨m, hm, hr, hd⟩ := ih (by omega) hbefore
    obtain ⟨m', hm', hr', hd'⟩ := memRead_draws (nth src n) (copyBytes n src dst s)
    have hlow : (nth dst n).toNat < 0xA800 := by rw [nth_toNat (by omega)]; omega
    refine ⟨m + m', by omega, ?_⟩
    rw [copyBytes_snoc n src dst hs h hbefore]
    rcases hread : memRead (nth src n) (copyBytes n src dst s) with ⟨_ | b, s₁⟩ <;> rw [hread] at hr' hd'
    · exact ⟨by rw [hr', hr, List.drop_drop], by rw [hd', hd, Nat.add_assoc]⟩
    · obtain ⟨hreplies, hdraws, -⟩ := memWrite_ports hlow b s₁
      exact ⟨by rw [hreplies, hr', hr, List.drop_drop], by rw [hdraws, hd', hd, Nat.add_assoc]⟩

/-! ### The engine -/

/-- Why TICK or WR HDMA5 faults: byte `k` of its copy is read at an address half, or from the store, which fails. -/
theorem engine_fault {i : Instr} (hm : mayCopy i) {s : State} {f : BlockFault} (hs : s.fault = none)
    (hf : (effect i s).fault = some f) : ∃ c k, copyOf i s = some c ∧ k < c.len ∧
      ((f = .hdmaWoRead (nth c.src k) ∧ s.params.cgbMode = true ∧ 0xFF51 ≤ (nth c.src k).toNat ∧
          (nth c.src k).toNat ≤ 0xFF54) ∨
       (f = .storeFail (nth c.src k) ∧ inVram (nth c.src k) = false ∧ inRouterWindow s.params (nth c.src k) = true ∧
          ∃ n ≤ k, answerFails s n = true)) := by
  obtain ⟨c, k, hc, hk, hbound, -, hok, hstop⟩ := engine_stop hm hs (by rw [hf]; exact Option.some_ne_none f)
  have hparams := (copyBytes_frame k c.src c.dst s (by omega)).params
  have hread : (memRead (nth c.src k) (copyBytes k c.src c.dst s)).2.fault = some f := by rw [hstop]; exact hf
  obtain ⟨hv, hw, hcause⟩ := memRead_fault hok hread
  rw [hparams] at hw hcause
  refine ⟨c, k, hc, hk, ?_⟩
  cases hcause
  case half hh =>
    obtain ⟨hcgb, hlo, hhi⟩ := readHandler_half hh
    rw [(readHandler_names _ _).2]
    exact .inl ⟨rfl, hcgb, hlo, hhi⟩
  case store hh hfail =>
    obtain ⟨n, hn, hr, hd⟩ := copyBytes_draws hs (by omega) hok
    rw [answerFails_of_drawn hr hd] at hfail
    rw [(readHandler_names _ _).2]
    exact .inr ⟨rfl, hv, hw, n, hn, hfail⟩

/-! ### The other operations -/

theorem storeWrite_fault {a : Addr} {v : Byte} {s : State} {f : BlockFault} (hs : s.fault = none)
    (hf : (storeWrite a v s).fault = some f) : answerFails s 0 = true ∧ f = .storeFail a := by
  rcases hfail : answerFails s 0 with _ | _
  · have hreply : ¬ (nextReply s).fails = true := by rw [nextReply_eq, Bool.not_eq_true]; exact hfail
    rw [storeWrite, if_neg hreply] at hf
    exact nomatch hs.symm.trans hf
  · have hreply : (nextReply s).fails = true := by rw [nextReply_eq]; exact hfail
    rw [storeWrite, if_pos hreply] at hf
    exact ⟨rfl, (Option.some.inj hf).symm⟩

/-- Why a bus write but the HDMA5 command faults: it is a write of the store, which fails. -/
theorem effect_write_fault {h : WriteHandler} (hne : h ≠ .hdma5) {a : Addr} {v : Byte} {s : State} {f : BlockFault}
    (hs : s.fault = none) (hf : (effect (h.instr a v) s).fault = some f) :
    answerFails s 0 = true ∧ f = .storeFail (h.wordAddr a) ∧
      (h = .generic ∨ (h = .boot ∧ ¬ (s.bootRomMapped = true ∧ (v = 0x01#8 ∨ v = 0x11#8)))) := by
  cases h
  case generic =>
    obtain ⟨hfail, rfl⟩ := storeWrite_fault hs hf
    exact ⟨hfail, rfl, .inl rfl⟩
  case boot =>
    by_cases hb : s.bootRomMapped = true ∧ (v = 0x01#8 ∨ v = 0x11#8)
    · rw [WriteHandler.instr, effect, writeBoot_unmaps hb] at hf
      exact nomatch hs.symm.trans hf
    · rw [WriteHandler.instr, effect, writeBoot_stores hb] at hf
      obtain ⟨hfail, rfl⟩ := storeWrite_fault hs hf
      exact ⟨hfail, rfl, .inr ⟨rfl, hb⟩⟩
  case hdma5 => exact absurd rfl hne
  case audio =>
    rw [WriteHandler.instr, effect, writeAudio] at hf
    split at hf <;> exact nomatch hs.symm.trans hf
  case lcdPal =>
    rw [WriteHandler.instr, effect, writeLcdPal] at hf
    split at hf <;> exact nomatch hs.symm.trans hf
  case timer | lcd | oamDma | wramBank | key1 | vbk | hdma1 | hdma2 | hdma3 | hdma4 | bcps | ocps | bcpd | ocpd =>
    exact nomatch hs.symm.trans hf

theorem vramPortRead_fault {b : Bank} {a : Addr} {s : State} {f : BlockFault} (hs : s.fault = none)
    (hf : (vramPortRead b a s).fault = some f) : inVram a = false ∧ f = .vramRange a := by
  rcases ha : inVram a with _ | _
  · rw [vramPortRead_out ha] at hf
    exact ⟨rfl, (Option.some.inj hf).symm⟩
  · rw [vramPortRead_in ha] at hf
    exact nomatch hs.symm.trans hf

theorem vramPortWrite_fault {a : Addr} {v : Byte} {s : State} {f : BlockFault} (hs : s.fault = none)
    (hf : (vramPortWrite a v s).fault = some f) : inVram a = false ∧ f = .vramRange a := by
  rcases ha : inVram a with _ | _
  · rw [vramPortWrite_out ha] at hf
    exact ⟨rfl, (Option.some.inj hf).symm⟩
  · rw [vramPortWrite_in ha, writeVram_eq] at hf
    exact nomatch hs.symm.trans hf

theorem resolveColour_fault {m : PalMem} {p c : BitVec 4} {s : State} {f : BlockFault} (hs : s.fault = none)
    (hf : (resolveColour m p c s).fault = some f) : (7 < p.toNat ∨ 3 < c.toNat) ∧ f = .paletteRange m p c := by
  rw [← resolveOutOfRange_iff]
  rcases hr : resolveOutOfRange p c with _ | _
  · rw [resolveColour, if_neg (Bool.eq_false_iff.mp hr)] at hf
    exact nomatch hs.symm.trans hf
  · rw [resolveColour, if_pos hr] at hf
    exact ⟨rfl, (Option.some.inj hf).symm⟩

theorem commitSwitch_fault (s : State) : (commitSwitch s).fault = s.fault := by
  unfold commitSwitch
  split <;> rfl

theorem not_inVram_iff {a : Addr} (h : inVram a = false) : ¬ (0x8000 ≤ a.toNat ∧ a.toNat < 0xA000) := by
  rw [← inVram_iff, h]
  exact Bool.false_ne_true

/-- Settles O11: the cause of each operation's fault, by its port. -/
theorem faultsComeOnlyFromTheirConditions : Obligations.FaultsComeOnlyFromTheirConditions := by
  intro i s t f hf hexec ht
  rw [exec_running i hf] at hexec
  obtain rfl := Host.Outcome.next.inj hexec
  have hs : (s.setResult none).fault = none := hf
  by_cases hm : mayCopy i
  · obtain ⟨c, k, hc, hk, ⟨rfl, hcgb, hlo, hhi⟩ | ⟨rfl, hv, hw, n, hn, hfail⟩⟩ := engine_fault hm hs ht <;>
      rw [copyOf_setResult] at hc
    · exact .inr (.inr (.inr (.inr ⟨hcgb, hlo, hhi, c, k, hc, hk, rfl⟩)))
    · exact .inr ⟨c, k, n, hc, hk, rfl, hv, hw, hn, hfail⟩
  · induction i using Instr.portCases with
    | read h a =>
      rw [effect_read] at ht
      rcases readAccess_fault hs ht with ⟨rfl | rfl | rfl | rfl⟩ | ⟨rfl | rfl | rfl, hfail⟩
      · exact .inl ⟨rfl, rfl⟩
      · exact .inr (.inl ⟨rfl, rfl⟩)
      · exact .inr (.inr (.inl ⟨rfl, rfl⟩))
      · exact .inr (.inr (.inr (.inl ⟨rfl, rfl⟩)))
      · exact .inl ⟨hfail, .inl rfl⟩
      · exact .inl ⟨hfail, .inr (.inr (.inl ⟨rfl, rfl⟩))⟩
      · exact .inl ⟨hfail, .inr (.inr (.inr (.inl ⟨rfl, rfl⟩)))⟩
    | write h a v =>
      by_cases hh : h = .hdma5
      · subst hh
        exact absurd (.inr ⟨v, rfl⟩) hm
      · obtain ⟨hfail, rfl, rfl | ⟨rfl, hb⟩⟩ := effect_write_fault hh hs ht
        · exact .inl ⟨hfail, .inr (.inl ⟨v, rfl⟩)⟩
        · exact .inl ⟨hfail, .inr (.inr (.inr (.inr ⟨v, rfl, rfl, hb⟩)))⟩
    | vrd a =>
      obtain ⟨ha, rfl⟩ := vramPortRead_fault hs ht
      exact ⟨not_inVram_iff ha, .inl rfl⟩
    | vwr a v =>
      obtain ⟨ha, rfl⟩ := vramPortWrite_fault hs ht
      exact ⟨not_inVram_iff ha, .inr (.inl ⟨v, rfl⟩)⟩
    | vrdb b a =>
      obtain ⟨ha, rfl⟩ := vramPortRead_fault hs ht
      exact ⟨not_inVram_iff ha, .inr (.inr ⟨b, rfl⟩)⟩
    | resolveBg p c =>
      obtain ⟨hr, rfl⟩ := resolveColour_fault hs ht
      exact ⟨hr, .inl ⟨rfl, rfl⟩⟩
    | resolveObj p c =>
      obtain ⟨hr, rfl⟩ := resolveColour_fault hs ht
      exact ⟨hr, .inr ⟨rfl, rfl⟩⟩
    | tick => exact absurd (.inl rfl) hm
    | commit => exact nomatch (hs.symm.trans (commitSwitch_fault _).symm).trans ht
    | reset => exact nomatch hs.symm.trans ht

end Sys2Proof.Machine
end
